-- ==== Sys2Proof/Word.lean ====
section
/-! DEFINITION. The words of the machine (spec/00_scope.md R7, R8): 8-bit registers, 13-bit program
addresses, 9-bit data addresses, 7-bit register operands and 14-bit program words. -/

namespace Sys2Proof

/-- One register, one ALU operand (R7 `XLEN`). -/
abbrev Byte := BitVec 8

/-- A program-memory address, the width of the PC (R22). -/
abbrev ProgAddr := BitVec 13

/-- A data-memory address: two bank bits and seven operand bits (R42, R61). -/
abbrev DataAddr := BitVec 9

/-- The register operand `f` of an instruction (R7 `F_BITS`). -/
abbrev FileAddr := BitVec 7

/-- One word of program memory (R41, R90). -/
abbrev CodeWord := BitVec 14

end Sys2Proof
end

