-- ==== Sys2Proof/Config.lean ====
section
/-! DEFINITION. What an implementation fixes: the parameter record of spec/00_scope.md R7 with the
register map of spec/10_state.md R27, and the values the model names for what the spec leaves
unknown at reset (log 1, log 2). No definition here is a free value: no instruction of this
hardware leaves an undefined result (spec/93_implementation_defined.md, part 1). -/

namespace Sys2Proof.Config

/-- R27: INDF, not a physical register (R36). -/
def addrINDF : FileAddr := 0x00#7
/-- R27: PCL, the low byte of the PC as a file register (R24). -/
def addrPCL : FileAddr := 0x02#7
/-- R27: STATUS. -/
def addrSTATUS : FileAddr := 0x03#7
/-- R27: FSR. -/
def addrFSR : FileAddr := 0x04#7
/-- R27: PCLATH. -/
def addrPCLATH : FileAddr := 0x0A#7
/-- R27: INTCON. -/
def addrINTCON : FileAddr := 0x0B#7

/-- R27: the bits of STATUS. -/
def bitC : Nat := 0
/-- R27. -/
def bitDC : Nat := 1
/-- R27. -/
def bitZ : Nat := 2
/-- R27: the power-down bit, active low (R32). -/
def bitNPD : Nat := 3
/-- R27: the time-out bit, active low (R31). -/
def bitNTO : Nat := 4
/-- R27. -/
def bitRP0 : Nat := 5
/-- R27. -/
def bitRP1 : Nat := 6
/-- R27. -/
def bitIRP : Nat := 7
/-- R27, R37: the global interrupt enable, in INTCON. -/
def bitGIE : Nat := 7

/-- R7, R38: `STACK_DEPTH`. -/
def stackDepth : Nat := 8
/-- R7, R41: `PROG_WORDS`. -/
def progWords : Nat := 8192
/-- R7, R240: `RESET_VECTOR`. -/
def resetVector : ProgAddr := 0x0000#13
/-- R7, R206: `INT_VECTOR`. -/
def interruptVector : ProgAddr := 0x0004#13

/-- W after a power-on reset. The spec says unknown (R46). DESIGN CHOICE, unsafe: log 1. -/
def resetW : Byte := 0x00#8
/-- FSR after a power-on reset. The spec says unknown (R46). DESIGN CHOICE, unsafe: log 1. -/
def resetFSR : Byte := 0x00#8
/-- STATUS after a power-on reset, `0001 1xxx` (R242). The three unknown bits Z, DC, C are 0:
DESIGN CHOICE, unsafe: log 1. -/
def resetSTATUS : Byte := 0b00011000#8
/-- INTCON after a power-on reset, `0000 000x` (R37, R46). The unknown bit 0 is 0: DESIGN CHOICE,
unsafe: log 1. -/
def resetINTCON : Byte := 0x00#8
/-- What a byte of general-purpose RAM reads as when nothing has written it. The spec says unknown
(R46). DESIGN CHOICE, unsafe: log 2. -/
def ramUnlisted : Byte := 0x00#8

end Sys2Proof.Config
end

