-- ==== Sys2Proof/Machine/Flags.lean ====
section
/-! DEFINITION. The arithmetic helpers and every flag computation: spec/00_scope.md R14 to R16, the
rotates and the nibble swap of spec/40_byte_file_ops.md R134, R135, R137, the STATUS write rule
spec/10_state.md R35 and the flag lists of R47. -/

namespace Sys2Proof.Machine

/-- A byte with bit `i` made `b` (R151, R152; the single-bit writes of STATUS and INTCON). -/
def setBitTo (v : Byte) (i : Nat) (b : Bool) : Byte :=
  if b then v ||| (1#8 <<< i) else v &&& ~~~(1#8 <<< i)

/-- Which of Z, DC and C an instruction lists under "Status Affected", each with its result (R47). -/
structure FlagUpdate where
  z : Option Bool := none
  dc : Option Bool := none
  c : Option Bool := none
deriving DecidableEq, Repr

/-- An ALU result: the byte written to the destination and the flags the instruction lists. -/
structure AluOut where
  value : Byte
  flags : FlagUpdate
deriving DecidableEq, Repr

/-- "Status Affected: None" (R47). -/
def noFlags : FlagUpdate := {}

/-- R16: 1 when the 8-bit result is 00h. -/
def zflag (r : Byte) : Bool := r == 0x00#8

/-- "Status Affected: Z" (R16, R47). -/
def zOnly (r : Byte) : FlagUpdate := { z := some (zflag r) }

/-- R35: the instruction lists none of C, DC, Z. -/
def FlagUpdate.isEmpty (fl : FlagUpdate) : Bool := fl.z.isNone && fl.dc.isNone && fl.c.isNone

/-- One listed flag takes its result, an unlisted one keeps its value. -/
def setListed (st : Byte) (i : Nat) : Option Bool → Byte
  | some b => setBitTo st i b
  | none => st

/-- The flags an instruction lists, written into STATUS; every other bit is kept (R28 to R30). -/
def applyFlags (st : Byte) (fl : FlagUpdate) : Byte :=
  setListed (setListed (setListed st Config.bitZ fl.z) Config.bitDC fl.dc) Config.bitC fl.c

/-- R35: STATUS written as a file register with the byte `v` by an instruction that lists `fl`.
IRP, RP1, RP0 take the data; nTO and nPD are not writable; Z, DC, C take the data only when the
instruction lists no flag, else the listed ones take their results and the others are kept. -/
def writeStatus (st v : Byte) (fl : FlagUpdate) : Byte :=
  applyFlags
    ((v &&& 0xE0#8) ||| (st &&& 0x18#8) ||| ((if fl.isEmpty then v else st) &&& 0x07#8)) fl

/-- The result of an 8-bit addition or subtraction with its carry and digit carry (R14, R15). -/
structure Sum8 where
  value : Byte
  carry : Bool
  digitCarry : Bool
deriving DecidableEq, Repr

/-- R14: `add8(a, b)`. -/
def add8 (a b : Byte) : Sum8 :=
  let s : BitVec 9 := a.setWidth 9 + b.setWidth 9
  let h : BitVec 5 := (a.extractLsb' 0 4).setWidth 5 + (b.extractLsb' 0 4).setWidth 5
  { value := s.extractLsb' 0 8, carry := s.getLsbD 8, digitCarry := h.getLsbD 4 }

/-- R15: `sub8(a, b)`, `a - b` as the 9-bit sum `a + NOT b + 1`; C and DC are 1 for "no borrow". -/
def sub8 (a b : Byte) : Sum8 :=
  let s : BitVec 9 := a.setWidth 9 + (~~~b).setWidth 9 + 1#9
  let h : BitVec 5 := (a.extractLsb' 0 4).setWidth 5 + ((~~~b).extractLsb' 0 4).setWidth 5 + 1#5
  { value := s.extractLsb' 0 8, carry := s.getLsbD 8, digitCarry := h.getLsbD 4 }

/-- "Status Affected: C, DC, Z" of an addition or subtraction (R47). -/
def arithmeticFlags (s : Sum8) : FlagUpdate :=
  { z := some (zflag s.value), dc := some s.digitCarry, c := some s.carry }

/-- R121, R161: `a + b` with C, DC and Z. -/
def aluAdd (a b : Byte) : AluOut := ⟨(add8 a b).value, arithmeticFlags (add8 a b)⟩

/-- R136, R165: `a - b` with C, DC and Z. -/
def aluSub (a b : Byte) : AluOut := ⟨(sub8 a b).value, arithmeticFlags (sub8 a b)⟩

/-- A result with Z as the only listed flag (R47). -/
def aluZ (r : Byte) : AluOut := ⟨r, zOnly r⟩

/-- A result with no listed flag (R47). -/
def aluPlain (r : Byte) : AluOut := ⟨r, noFlags⟩

/-- R134: `a[6:0] : cin`, the old bit 7 leaves into C. -/
def aluRotateLeft (a : Byte) (cin : Bool) : AluOut :=
  ⟨a.extractLsb' 0 7 ++ BitVec.ofBool cin, { c := some (a.getLsbD 7) }⟩

/-- R135: `cin : a[7:1]`, the old bit 0 leaves into C. -/
def aluRotateRight (a : Byte) (cin : Bool) : AluOut :=
  ⟨BitVec.ofBool cin ++ a.extractLsb' 1 7, { c := some (a.getLsbD 0) }⟩

/-- R137: the two nibbles exchanged. -/
def swapNibbles (a : Byte) : Byte := a.extractLsb' 0 4 ++ a.extractLsb' 4 4

end Sys2Proof.Machine
end

