-- ==== Sys2Proof/Machine/State.lean ====
section
/-! DEFINITION. The state of the machine as plain data (spec/10_state.md R20 to R46), the reasons a
step can stop (spec/60_exceptions.md R201) and the power-on reset state (R46,
spec/70_reset_and_hazards.md R242). -/

namespace Sys2Proof.Machine

/-- General-purpose RAM: (storage cell, byte) pairs in the canonical form `Memory.wf`. -/
abbrev Memory := List Host.Cell

/-- Program memory: (address, word) pairs in the canonical form `ProgramMemory.wf` (R41, log 17). -/
abbrev ProgramMemory := List (Nat × CodeWord)

/-- What the watchdog and the platform present at one instruction boundary (R19, R203, R220, R241).
`wdtCounts` and `prescalerCounts` are how far the two watchdog counters run while the step at this
boundary executes (R43, log 8). DESIGN CHOICE (log 26): a sample raises a request and sets no flag bit of
INTCON; R203 leaves to a platform model how a device does that. -/
structure BoundaryInput where
  /-- R203: at least one interrupt source has its flag and its enable bit set. -/
  irqPending : Bool := false
  /-- R220: the watchdog times out at this boundary; without effect while WDTE is 0. -/
  wdtTimeout : Bool := false
  /-- R241: an external reset on the MCLR pin. -/
  mclr : Bool := false
  wdtCounts : Nat := 0
  prescalerCounts : Nat := 0
deriving DecidableEq, Repr

/-- The whole machine. INVENTORY.md, "State", names the rule and the reset value of each field. -/
structure State where
  /-- R22: the address of the instruction being executed, for the whole of its step. -/
  pc : ProgAddr
  /-- R20: the working register W. -/
  w : Byte
  /-- R26, R27: IRP RP1 RP0 nTO nPD Z DC C, from bit 7 down to bit 0. -/
  status : Byte
  /-- R36: the indirect pointer. -/
  fsr : Byte
  /-- R25: the five implemented bits; bits 7:5 of the register read 0. -/
  pclath : BitVec 5
  /-- R37: GIE in bit 7, the platform's enables and flags below it. -/
  intcon : Byte
  /-- R38: return addresses, the newest (TOS) first. -/
  stack : List ProgAddr
  /-- R42, R66: the 368 bytes of general-purpose RAM, by storage cell. -/
  ram : Memory
  /-- R41: the loaded program. -/
  prog : ProgramMemory
  /-- R43: the watchdog counter, an abstract count. -/
  wdt : Nat
  /-- R43: the watchdog prescaler, an abstract count. -/
  wdtPrescaler : Nat
  /-- R44: the core is in sleep. -/
  asleep : Bool
  /-- R7, R220: WDTE, the configuration bit that enables the watchdog; fixed for a run. -/
  wdte : Bool
  /-- The model's own (log 10): a wake-up step has been taken and the instruction after the SLEEP has
  not yet executed, so the interrupt check is not made (R205, R227). -/
  wokeUp : Bool
  /-- The model's own (log 6): the samples at this boundary and at those that follow; after the last
  one nothing arrives any more. -/
  inputs : List BoundaryInput
deriving DecidableEq, Repr

/-- Model stops that are no refusals (R201). None is an event of the chip and none writes an
architectural register. -/
inductive Fault where
  /-- Raised by a push onto a full return stack: CALL and interrupt entry (R39). The chip overwrites
  its oldest entry. Safe: the model stops where the chip goes on (log 5). -/
  | stackOverflow
  /-- Raised by a pop of an empty return stack: RETURN, RETLW, RETFIE (R40). The chip loads a stale
  entry. Safe (log 5). -/
  | stackUnderflow
  /-- Raised by a step of a sleeping core when WDTE is 0 and no sample is left, so that nothing can
  wake it: "no step", the final state of the run (R12(d), R193, R247). Safe: no wake-up is invented
  (log 9). -/
  | asleepNoWake
deriving DecidableEq, Repr

/-- What the spec gives no meaning (R12(c), R201). Every refusal is safe: the model stops. -/
inductive Refusal where
  /-- Raised by `exec` for an instruction without a meaning yet. Safe. -/
  | notModelled (mnemonic : String)
  /-- Raised by a read or write whose data address is a peripheral register (R68). Safe (log 4). -/
  | peripheralAccess (a : DataAddr)
  /-- Raised by the fetch of a word that spells no instruction (R100). Safe. -/
  | unassignedEncoding (w : CodeWord)
  /-- Raised by the fetch from an address at which the program places nothing (R60). Safe (log 17). -/
  | noInstructionAt (a : ProgAddr)
  /-- Raised by INCFSZ and DECFSZ with `d` = 1 when the operand is PCL (R65). Safe (log 13). -/
  | skipWithPCLDestination
  /-- Raised by an instruction written by hand with an operand outside its range (R110). Safe
  (log 15). -/
  | malformedOperand
deriving DecidableEq, Repr

/-- What an instruction, and a step, answers. -/
abbrev Result := Host.Outcome State Fault Refusal

/-- R46, R240, R242: the power-on state. Where the spec says "unknown" the value is the model's, named
in Config (log 1, log 2); no program is loaded (log 16), WDTE is 0 (log 7), nothing is presented
from outside (log 6). -/
def State.reset : State where
  pc := Config.resetVector
  w := Config.resetW
  status := Config.resetSTATUS
  fsr := Config.resetFSR
  pclath := 0#5
  intcon := Config.resetINTCON
  stack := []
  ram := []
  prog := []
  wdt := 0
  wdtPrescaler := 0
  asleep := false
  wdte := false
  wokeUp := false
  inputs := []

end Sys2Proof.Machine
end

