-- ==== Sys2Proof/Machine/Memory.lean ====
section
/-! DEFINITION. The two memories as sparse lists in one canonical form: general-purpose RAM by storage
cell (spec/20_memory.md R66, R67, R75) and program memory by word address (R41, R60). -/

namespace Sys2Proof.Machine

/-- The byte a storage cell of RAM holds; an unlisted cell holds `Config.ramUnlisted` (log 2). -/
def Memory.read : Memory → Nat → Byte
  | [], _ => Config.ramUnlisted
  | (k, v) :: rest, a => if k = a then v else Memory.read rest a

/-- RAM with one storage cell written. Writing the value an unlisted cell reads as removes the
entry, so that equal memories are equal lists. -/
def Memory.write : Memory → Nat → Byte → Memory
  | [], a, v => if v = Config.ramUnlisted then [] else [(a, v)]
  | (k, x) :: rest, a, v =>
    if a < k then
      if v = Config.ramUnlisted then (k, x) :: rest else (a, v) :: (k, x) :: rest
    else if a = k then
      if v = Config.ramUnlisted then rest else (a, v) :: rest
    else (k, x) :: Memory.write rest a v

/-- The canonical form of RAM: cells strictly rising, no entry equal to what an unlisted cell reads
as. -/
abbrev Memory.wf (m : Memory) : Prop :=
  m.Pairwise (fun x y => x.1 < y.1) ∧ ∀ c ∈ m, c.2 ≠ Config.ramUnlisted

/-- The word the program places at an address, if it places one (R60). -/
def ProgramMemory.lookup : ProgramMemory → Nat → Option CodeWord
  | [], _ => none
  | (k, v) :: rest, a => if k = a then some v else ProgramMemory.lookup rest a

/-- Program memory with one word placed, by whoever loads the program: no instruction writes program
memory (R79). -/
def ProgramMemory.place : ProgramMemory → Nat → CodeWord → ProgramMemory
  | [], a, v => [(a, v)]
  | (k, x) :: rest, a, v =>
    if a < k then (a, v) :: (k, x) :: rest
    else if a = k then (a, v) :: rest
    else (k, x) :: ProgramMemory.place rest a v

/-- Program memory with nothing at one address. -/
def ProgramMemory.clear : ProgramMemory → Nat → ProgramMemory
  | [], _ => []
  | (k, x) :: rest, a =>
    if k = a then ProgramMemory.clear rest a else (k, x) :: ProgramMemory.clear rest a

/-- The canonical form of program memory: addresses strictly rising and inside the 8192 words. -/
abbrev ProgramMemory.wf (p : ProgramMemory) : Prop :=
  p.Pairwise (fun x y => x.1 < y.1) ∧ ∀ c ∈ p, c.1 < Config.progWords

end Sys2Proof.Machine
end

