-- ==== Sys2Proof/Syntax.lean ====
section
/-! DEFINITION. The instructions: one constructor per row of spec/opcode_table.json, in the table's
order. Operands are the numbers an assembler line carries (spec/30_encoding.md R97, R105), so that
an operand outside its range can be written down and refused (R110). -/

namespace Sys2Proof

/-- A decoded instruction, the spec's normative level (spec/00_scope.md R6). `f` is a register
address, `d` the destination selector (0 is W, 1 is the file register, R9), `b` a bit number, `k` a
literal or a branch target. -/
inductive Instr where
  | addwf (f d : Nat)
  | andwf (f d : Nat)
  | clrf (f : Nat)
  | clrw
  | comf (f d : Nat)
  | decf (f d : Nat)
  | decfsz (f d : Nat)
  | incf (f d : Nat)
  | incfsz (f d : Nat)
  | iorwf (f d : Nat)
  | movf (f d : Nat)
  | movwf (f : Nat)
  | nop
  | rlf (f d : Nat)
  | rrf (f d : Nat)
  | subwf (f d : Nat)
  | swapf (f d : Nat)
  | xorwf (f d : Nat)
  | bcf (f b : Nat)
  | bsf (f b : Nat)
  | btfsc (f b : Nat)
  | btfss (f b : Nat)
  | addlw (k : Nat)
  | andlw (k : Nat)
  | call (k : Nat)
  | clrwdt
  | goto (k : Nat)
  | iorlw (k : Nat)
  | movlw (k : Nat)
  | retfie
  | retlw (k : Nat)
  | ret
  | sleep
  | sublw (k : Nat)
  | xorlw (k : Nat)
deriving DecidableEq, Repr

end Sys2Proof
end

