-- ==== Sys2Proof/WellFormed.lean ====
section
/-! DEFINITION. The operand ranges of spec/30_encoding.md R110. -/

namespace Sys2Proof

/-- R110: `f` is 0 to 127. -/
def fileInRange (f : Nat) : Bool := decide (f < 128)

/-- R110: `d` is 0 or 1. -/
def destInRange (d : Nat) : Bool := decide (d < 2)

/-- R110, R150: `b` is 0 to 7 (BTFSS too: 90_conflicts.md C1). -/
def bitInRange (b : Nat) : Bool := decide (b < 8)

/-- R110: `k` is 0 to 255 for the seven 8-bit-literal instructions. -/
def literalInRange (k : Nat) : Bool := decide (k < 256)

/-- R110: `k` is 0 to 2047 for CALL and GOTO. -/
def targetInRange (k : Nat) : Bool := decide (k < 2048)

/-- R110: every operand of the instruction is in its range. -/
def Instr.wellFormed : Instr → Bool
  | .addwf f d => fileInRange f && destInRange d
  | .andwf f d => fileInRange f && destInRange d
  | .clrf f => fileInRange f
  | .clrw => true
  | .comf f d => fileInRange f && destInRange d
  | .decf f d => fileInRange f && destInRange d
  | .decfsz f d => fileInRange f && destInRange d
  | .incf f d => fileInRange f && destInRange d
  | .incfsz f d => fileInRange f && destInRange d
  | .iorwf f d => fileInRange f && destInRange d
  | .movf f d => fileInRange f && destInRange d
  | .movwf f => fileInRange f
  | .nop => true
  | .rlf f d => fileInRange f && destInRange d
  | .rrf f d => fileInRange f && destInRange d
  | .subwf f d => fileInRange f && destInRange d
  | .swapf f d => fileInRange f && destInRange d
  | .xorwf f d => fileInRange f && destInRange d
  | .bcf f b => fileInRange f && bitInRange b
  | .bsf f b => fileInRange f && bitInRange b
  | .btfsc f b => fileInRange f && bitInRange b
  | .btfss f b => fileInRange f && bitInRange b
  | .addlw k => literalInRange k
  | .andlw k => literalInRange k
  | .call k => targetInRange k
  | .clrwdt => true
  | .goto k => targetInRange k
  | .iorlw k => literalInRange k
  | .movlw k => literalInRange k
  | .retfie => true
  | .retlw k => literalInRange k
  | .ret => true
  | .sleep => true
  | .sublw k => literalInRange k
  | .xorlw k => literalInRange k

end Sys2Proof
end

