-- ==== Sys2Proof/Machine/Operands.lean ====
section
/-! DEFINITION. The operand forms: range checks at the decoded level (spec/30_encoding.md R97, R110)
and the data map an operand `f` resolves into (spec/20_memory.md R61, R62, R66 to R69). -/

namespace Sys2Proof.Machine

/-- R9: where a byte-oriented instruction puts its result. -/
inductive Dest where
  /-- `d` = 0: W. -/
  | w
  /-- `d` = 1: the file register. -/
  | file
deriving DecidableEq, Repr

/-- R110: the register operand, if it is in range. -/
def fileOperand (f : Nat) : Option FileAddr :=
  if fileInRange f then some (BitVec.ofNat 7 f) else none

/-- R9, R110: the destination operand, if it is in range. -/
def destOperand (d : Nat) : Option Dest :=
  match d with
  | 0 => some .w
  | 1 => some .file
  | _ => none

/-- R110, R150: the bit operand, if it is in range. -/
def bitOperand (b : Nat) : Option Nat := if bitInRange b then some b else none

/-- R110, R13: the 8-bit literal, unsigned and unextended, if it is in range. -/
def literalOperand (k : Nat) : Option Byte :=
  if literalInRange k then some (BitVec.ofNat 8 k) else none

/-- R110, R13: the 11-bit branch target, if it is in range. -/
def targetOperand (k : Nat) : Option (BitVec 11) :=
  if targetInRange k then some (BitVec.ofNat 11 k) else none

/-- What stands at a 9-bit data address (R64, R66). -/
inductive Region where
  /-- INDF reached indirectly: no register is there (R36). -/
  | indf
  | pcl
  | status
  | fsr
  | pclath
  | intcon
  /-- General-purpose RAM, by its storage cell (R67). -/
  | ram (cell : Nat)
  /-- A register of a peripheral, outside the spec (R68). -/
  | peripheral
  /-- R69: no address of this map. -/
  | unimplemented
deriving DecidableEq, Repr

/-- `a[6:0]` (R64). -/
def lowAddr (a : DataAddr) : FileAddr := a.extractLsb' 0 7

/-- Whether `lo ≤ a ≤ hi` (the rows of R66). -/
def inRows (lo hi : Nat) (a : DataAddr) : Bool := decide (lo ≤ a.toNat) && decide (a.toNat ≤ hi)

/-- R66: the mirrors of the common RAM row. -/
def isCommonMirror (a : DataAddr) : Bool :=
  inRows 0x0F0 0x0FF a || inRows 0x170 0x17F a || inRows 0x1F0 0x1FF a

/-- R66: `IsGPR(a)`, the five RAM rows and the three mirrors of the common row. -/
def isGPR (a : DataAddr) : Bool :=
  inRows 0x020 0x06F a || inRows 0x070 0x07F a || inRows 0x0A0 0x0EF a || inRows 0x110 0x16F a ||
    inRows 0x190 0x1EF a || isCommonMirror a

/-- R66: `IsPeripheral(a)`, the four peripheral rows. -/
def isPeripheral (a : DataAddr) : Bool :=
  (inRows 0x001 0x001 a || inRows 0x005 0x009 a || inRows 0x00C 0x01F a) ||
  (inRows 0x081 0x081 a || inRows 0x085 0x089 a || inRows 0x08C 0x09F a) ||
  (inRows 0x101 0x101 a || inRows 0x105 0x109 a || inRows 0x10C 0x10F a) ||
  (inRows 0x181 0x181 a || inRows 0x185 0x189 a || inRows 0x18C 0x18F a)

/-- R67: `Canon(a)`, the storage cell of a general-purpose address. -/
def canon (a : DataAddr) : Nat :=
  if isCommonMirror a then 0x070 + a.toNat % 16 else a.toNat

/-- What a data address names, in the order of the branches of R64 and R65. -/
def regionOf (a : DataAddr) : Region :=
  if lowAddr a = Config.addrINDF then .indf
  else if lowAddr a = Config.addrPCL then .pcl
  else if lowAddr a = Config.addrSTATUS then .status
  else if lowAddr a = Config.addrFSR then .fsr
  else if lowAddr a = Config.addrPCLATH then .pclath
  else if lowAddr a = Config.addrINTCON then .intcon
  else if isGPR a then .ram (canon a)
  else if isPeripheral a then .peripheral
  else .unimplemented

/-- The operand's data address: `RP1 : RP0 : f` (R61), or `IRP : FSR` when `f` = 00h (R36, R62). -/
def State.resolve (s : State) (f : FileAddr) : DataAddr :=
  if f = Config.addrINDF then s.status.extractLsb' Config.bitIRP 1 ++ s.fsr
  else s.status.extractLsb' Config.bitRP0 2 ++ f

end Sys2Proof.Machine
end

