-- ==== Sys2Proof/Machine/Ops.lean ====
section
/-! DEFINITION. The named operations over registers, data memory and the return stack, interrupt entry
and the return from it, and the shared shapes of the instructions. -/

namespace Sys2Proof.Machine

/-! ### Register views -/

/-- R28. -/
def State.flagC (s : State) : Bool := s.status.getLsbD Config.bitC
/-- R29. -/
def State.flagDC (s : State) : Bool := s.status.getLsbD Config.bitDC
/-- R30. -/
def State.flagZ (s : State) : Bool := s.status.getLsbD Config.bitZ
/-- R32. -/
def State.nPD (s : State) : Bool := s.status.getLsbD Config.bitNPD
/-- R31. -/
def State.nTO (s : State) : Bool := s.status.getLsbD Config.bitNTO
/-- R37. -/
def State.gie (s : State) : Bool := s.intcon.getLsbD Config.bitGIE

/-- R11: `next`, the address after the executing instruction, modulo 2^13. -/
def State.next (s : State) : ProgAddr := s.pc + 1#13
/-- R11: `next2`, modulo 2^13. -/
def State.next2 (s : State) : ProgAddr := s.pc + 2#13

/-- `pc <- next` (R23(a)). -/
def State.advance (s : State) : State := { s with pc := s.next }

/-- The flags an instruction lists, written into STATUS (R47). -/
def State.setFlags (s : State) (fl : FlagUpdate) : State :=
  { s with status := applyFlags s.status fl }

/-- nTO and nPD, written by CLRWDT, SLEEP, resets and watchdog wake-ups (R31, R32). -/
def State.setPowerBits (s : State) (nTO nPD : Bool) : State :=
  { s with status := setBitTo (setBitTo s.status Config.bitNTO nTO) Config.bitNPD nPD }

/-- The sample the platform presents at this boundary; after the last one nothing arrives (log 6). -/
def State.input (s : State) : BoundaryInput := s.inputs.headD {}

/-! ### Data memory -/

/-- R64: `MemRead(a, 1)`. A read changes nothing. -/
def State.memRead (s : State) (a : DataAddr) : Except Refusal Byte :=
  match regionOf a with
  | .indf => .ok 0x00#8
  | .pcl => .ok (s.next.extractLsb' 0 8)
  | .status => .ok s.status
  | .fsr => .ok s.fsr
  | .pclath => .ok (0#3 ++ s.pclath)
  | .intcon => .ok s.intcon
  | .ram cell => .ok (s.ram.read cell)
  | .peripheral => .error (.peripheralAccess a)
  | .unimplemented => .ok 0x00#8

/-- R65: `MemWrite(a, 1, v)` by an instruction that lists the flags `fl`, followed by the writing of
those flags (R120(b)). The pc has already been set to where the instruction would go on; a write to
PCL replaces it (R24). A write to STATUS is R35. -/
def State.memWrite (s : State) (a : DataAddr) (v : Byte) (fl : FlagUpdate) : Except Refusal State :=
  match regionOf a with
  | .indf => .ok (s.setFlags fl)
  | .pcl => .ok { s.setFlags fl with pc := s.pclath ++ v }
  | .status => .ok { s with status := writeStatus s.status v fl }
  | .fsr => .ok { s.setFlags fl with fsr := v }
  | .pclath => .ok { s.setFlags fl with pclath := v.extractLsb' 0 5 }
  | .intcon => .ok { s.setFlags fl with intcon := v }
  | .ram cell => .ok { s.setFlags fl with ram := s.ram.write cell v }
  | .peripheral => .error (.peripheralAccess a)
  | .unimplemented => .ok (s.setFlags fl)

/-- R10: `dest(f, d) <- v`, then the listed flags (R120(b)). -/
def State.writeDest (s : State) (dst : Dest) (a : DataAddr) (v : Byte) (fl : FlagUpdate) :
    Except Refusal State :=
  match dst with
  | .w => .ok { s.setFlags fl with w := v }
  | .file => s.memWrite a v fl

/-! ### The return stack -/

/-- R39: `Push(v)`. -/
def State.push (s : State) (v : ProgAddr) : Except Fault State :=
  if s.stack.length < Config.stackDepth then .ok { s with stack := v :: s.stack }
  else .error .stackOverflow

/-- R40: `pc <- Pop()`. -/
def State.popPc (s : State) : Except Fault State :=
  match s.stack with
  | [] => .error .stackUnderflow
  | v :: rest => .ok { s with pc := v, stack := rest }

/-- R172, R173: `PCLATH[4:3] : k`. -/
def State.pageTarget (s : State) (k : BitVec 11) : ProgAddr := s.pclath.extractLsb' 3 2 ++ k

/-! ### Interrupt entry and return -/

/-- R206: interrupt entry. The pc, at this boundary the address of the instruction that would have
executed next, is pushed; GIE is cleared; the pc goes to the vector. Nothing else is saved or
changed (R207). -/
def State.takeInterrupt (s : State) : Except Fault State :=
  match s.push s.pc with
  | .error e => .error e
  | .ok t => .ok { t with intcon := setBitTo t.intcon Config.bitGIE false, pc := Config.interruptVector }

/-- R174, R208: the return from an interrupt, `pc <- Pop()` and GIE <- 1. It restores nothing else. -/
def State.returnFromInterrupt (s : State) : Except Fault State :=
  match s.popPc with
  | .error e => .error e
  | .ok t => .ok { t with intcon := setBitTo t.intcon Config.bitGIE true }

/-! ### Outcomes -/

/-- An operation that can only be refused, as the outcome of an instruction. -/
def orRefuse : Except Refusal State → Result
  | .ok s => .next s
  | .error r => .refused r

/-- An operation that can only fault, as the outcome of an instruction. -/
def orFault : Except Fault State → Result
  | .ok s => .next s
  | .error e => .fault e

/-! ### The shapes of the instructions -/

/-- R120(b): a byte-oriented instruction `f,d` reads its operand once, computes, writes the
destination and then the flags it lists, and goes on at `next` unless it wrote PCL. -/
def fileOp (f d : Nat) (alu : Byte → AluOut) (s : State) : Result :=
  match fileOperand f, destOperand d with
  | some fa, some dst =>
    match s.memRead (s.resolve fa) with
    | .error r => .refused r
    | .ok v => orRefuse (s.advance.writeDest dst (s.resolve fa) (alu v).value (alu v).flags)
  | _, _ => .refused .malformedOperand

/-- R124, R132: an instruction that writes its file register without using the old value. -/
def fileStore (f : Nat) (out : AluOut) (s : State) : Result :=
  match fileOperand f with
  | some fa => orRefuse (s.advance.memWrite (s.resolve fa) out.value out.flags)
  | none => .refused .malformedOperand

/-- R127, R129, R171: a byte-oriented instruction that lists no flag and skips when its result is
00h. With PCL as its destination it has no meaning (R65, log 13). -/
def fileSkipOp (f d : Nat) (g : Byte → Byte) (s : State) : Result :=
  match fileOperand f, destOperand d with
  | some fa, some dst =>
    if dst = .file ∧ regionOf (s.resolve fa) = .pcl then .refused .skipWithPCLDestination
    else
      match s.memRead (s.resolve fa) with
      | .error r => .refused r
      | .ok v =>
        orRefuse (State.writeDest { s with pc := if g v = 0x00#8 then s.next2 else s.next } dst
          (s.resolve fa) (g v) noFlags)
  | _, _ => .refused .malformedOperand

/-- R151, R152: the whole byte is read, bit `b` is made `x`, and all eight bits are written back as
data. -/
def bitWriteOp (f b : Nat) (x : Bool) (s : State) : Result :=
  match fileOperand f, bitOperand b with
  | some fa, some i =>
    match s.memRead (s.resolve fa) with
    | .error r => .refused r
    | .ok v => orRefuse (s.advance.memWrite (s.resolve fa) (setBitTo v i x) noFlags)
  | _, _ => .refused .malformedOperand

/-- R153, R154, R171: skip when bit `b` of the register is `x`; nothing is written. -/
def bitSkipOp (f b : Nat) (x : Bool) (s : State) : Result :=
  match fileOperand f, bitOperand b with
  | some fa, some i =>
    match s.memRead (s.resolve fa) with
    | .error r => .refused r
    | .ok v => .next { s with pc := if v.getLsbD i = x then s.next2 else s.next }
  | _, _ => .refused .malformedOperand

/-- R160: an instruction on W and an 8-bit literal: W and the listed flags are written. -/
def literalOp (k : Nat) (alu : Byte → AluOut) (s : State) : Result :=
  match literalOperand k with
  | some v => .next { s.advance.setFlags (alu v).flags with w := (alu v).value }
  | none => .refused .malformedOperand

end Sys2Proof.Machine
end

