-- ==== Sys2Proof/Machine/BitOps.lean ====
section
/-! DEFINITION. The bit-oriented file-register instructions, spec/41_bit_ops.md R150 to R154. -/

namespace Sys2Proof.Machine

/-- R151: BCF. -/
def execBcf (f b : Nat) (s : State) : Result := bitWriteOp f b false s

/-- R152: BSF. -/
def execBsf (f b : Nat) (s : State) : Result := bitWriteOp f b true s

/-- R154: BTFSC, skip when the bit is 0. -/
def execBtfsc (f b : Nat) (s : State) : Result := bitSkipOp f b false s

/-- R153: BTFSS, skip when the bit is 1. -/
def execBtfss (f b : Nat) (s : State) : Result := bitSkipOp f b true s

end Sys2Proof.Machine
end

