-- ==== Sys2Proof/Machine/ByteOps.lean ====
section
/-! DEFINITION. The byte-oriented file-register instructions and CLRW, spec/40_byte_file_ops.md R120 to
R139. -/

namespace Sys2Proof.Machine

/-- R121: ADDWF, `W + f`; C, DC, Z. -/
def execAddwf (f d : Nat) (s : State) : Result := fileOp f d (fun v => aluAdd s.w v) s

/-- R122: ANDWF; Z. -/
def execAndwf (f d : Nat) (s : State) : Result := fileOp f d (fun v => aluZ (s.w &&& v)) s

/-- R124: CLRF; Z is set. -/
def execClrf (f : Nat) (s : State) : Result := fileStore f ⟨0x00#8, { z := some true }⟩ s

/-- R123: CLRW; Z is set. -/
def execClrw (s : State) : Result :=
  .next { s.advance.setFlags { z := some true } with w := 0x00#8 }

/-- R125: COMF, the ones' complement; Z. -/
def execComf (f d : Nat) (s : State) : Result := fileOp f d (fun v => aluZ (~~~v)) s

/-- R126: DECF; Z only, a borrow is not recorded. -/
def execDecf (f d : Nat) (s : State) : Result := fileOp f d (fun v => aluZ (v - 1#8)) s

/-- R127: DECFSZ; no flag, skips when the result is 00h. -/
def execDecfsz (f d : Nat) (s : State) : Result := fileSkipOp f d (fun v => v - 1#8) s

/-- R128: INCF; Z only, a carry is not recorded. -/
def execIncf (f d : Nat) (s : State) : Result := fileOp f d (fun v => aluZ (v + 1#8)) s

/-- R129: INCFSZ; no flag, skips when the result is 00h. -/
def execIncfsz (f d : Nat) (s : State) : Result := fileSkipOp f d (fun v => v + 1#8) s

/-- R130: IORWF; Z. -/
def execIorwf (f d : Nat) (s : State) : Result := fileOp f d (fun v => aluZ (s.w ||| v)) s

/-- R131: MOVF; Z. -/
def execMovf (f d : Nat) (s : State) : Result := fileOp f d (fun v => aluZ v) s

/-- R132: MOVWF; no flag, the old value of the register is not used. -/
def execMovwf (f : Nat) (s : State) : Result := fileStore f (aluPlain s.w) s

/-- R134: RLF, left through C; C only. -/
def execRlf (f d : Nat) (s : State) : Result := fileOp f d (fun v => aluRotateLeft v s.flagC) s

/-- R135: RRF, right through C; C only. -/
def execRrf (f d : Nat) (s : State) : Result := fileOp f d (fun v => aluRotateRight v s.flagC) s

/-- R136: SUBWF, `f - W`; C, DC, Z. -/
def execSubwf (f d : Nat) (s : State) : Result := fileOp f d (fun v => aluSub v s.w) s

/-- R137: SWAPF; no flag. -/
def execSwapf (f d : Nat) (s : State) : Result := fileOp f d (fun v => aluPlain (swapNibbles v)) s

/-- R138: XORWF; Z. -/
def execXorwf (f d : Nat) (s : State) : Result := fileOp f d (fun v => aluZ (s.w ^^^ v)) s

end Sys2Proof.Machine
end

