-- ==== Sys2Proof/Machine/Control.lean ====
section
/-! DEFINITION. CALL, GOTO and the returns, spec/43_control_transfer.md R172 to R176. -/

namespace Sys2Proof.Machine

/-- R172: CALL pushes `next` and loads the pc from PCLATH<4:3> and the 11-bit target. -/
def execCall (k : Nat) (s : State) : Result :=
  match targetOperand k with
  | none => .refused .malformedOperand
  | some t =>
    match s.push s.next with
    | .error e => .fault e
    | .ok u => .next { u with pc := s.pageTarget t }

/-- R173: GOTO loads the pc as CALL does; the stack is not touched. -/
def execGoto (k : Nat) (s : State) : Result :=
  match targetOperand k with
  | none => .refused .malformedOperand
  | some t => .next { s with pc := s.pageTarget t }

/-- R174: RETFIE. -/
def execRetfie (s : State) : Result := orFault s.returnFromInterrupt

/-- R175: RETLW, W takes the literal and the pc the popped address. -/
def execRetlw (k : Nat) (s : State) : Result :=
  match literalOperand k with
  | none => .refused .malformedOperand
  | some v => orFault (State.popPc { s with w := v })

/-- R176: RETURN. -/
def execReturn (s : State) : Result := orFault s.popPc

end Sys2Proof.Machine
end

