-- ==== Sys2Proof/Machine/LiteralOps.lean ====
section
/-! DEFINITION. The literal instructions on W, spec/42_literal_ops.md R160 to R166. -/

namespace Sys2Proof.Machine

/-- R161: ADDLW, `W + k`; C, DC, Z. -/
def execAddlw (k : Nat) (s : State) : Result := literalOp k (fun v => aluAdd s.w v) s

/-- R162: ANDLW; Z. -/
def execAndlw (k : Nat) (s : State) : Result := literalOp k (fun v => aluZ (s.w &&& v)) s

/-- R163: IORLW; Z. -/
def execIorlw (k : Nat) (s : State) : Result := literalOp k (fun v => aluZ (s.w ||| v)) s

/-- R164: MOVLW; no flag. -/
def execMovlw (k : Nat) (s : State) : Result := literalOp k (fun v => aluPlain v) s

/-- R165: SUBLW, `k - W`; C, DC, Z. -/
def execSublw (k : Nat) (s : State) : Result := literalOp k (fun v => aluSub v s.w) s

/-- R166: XORLW; Z. -/
def execXorlw (k : Nat) (s : State) : Result := literalOp k (fun v => aluZ (s.w ^^^ v)) s

end Sys2Proof.Machine
end

