-- ==== Sys2Proof/Machine/System.lean ====
section
/-! DEFINITION. CLRWDT, NOP and SLEEP, spec/44_system_ops.md R190 to R192. -/

namespace Sys2Proof.Machine

/-- R190: CLRWDT clears the watchdog and its prescaler and sets nTO and nPD. -/
def execClrwdt (s : State) : Result :=
  .next { s.advance.setPowerBits true true with wdt := 0, wdtPrescaler := 0 }

/-- R191: NOP. -/
def execNop (s : State) : Result := .next s.advance

/-- R192: SLEEP clears the watchdog and its prescaler, sets nTO, clears nPD and puts the core to
sleep; with an interrupt request pending at this boundary it acts as a NOP instead (U21, log 11). -/
def execSleep (s : State) : Result :=
  if s.input.irqPending then .next s.advance
  else .next { s.advance.setPowerBits true false with wdt := 0, wdtPrescaler := 0, asleep := true }

end Sys2Proof.Machine
end

