-- ==== Sys2Proof/Machine/Events.lean ====
section
/-! DEFINITION. The events at an instruction boundary that are not instructions: resets, watchdog
time-outs, wake-ups and the interrupt check (spec/60_exceptions.md R203 to R210, R220 to R222, R227;
spec/70_reset_and_hazards.md R240, R241; spec/10_state.md R46, column "other resets"). -/

namespace Sys2Proof.Machine

/-- What happens at a boundary. -/
inductive BoundaryEvent where
  /-- R241: MCLR. -/
  | externalReset
  /-- R221: a watchdog time-out while awake. -/
  | watchdogReset
  /-- R222: a watchdog time-out while asleep. -/
  | watchdogWake
  /-- R227(c): an interrupt request while asleep. -/
  | interruptWake
  /-- R193: asleep, and nothing wakes the core at this boundary. -/
  | sleeping
  /-- R193, R247(a): asleep with WDTE = 0 and no sample left, so that nothing can wake the core. -/
  | noWakeLeft
  /-- R205, R206. -/
  | interruptEntry
  /-- The instruction at the pc executes. -/
  | instruction
deriving DecidableEq, Repr

/-- Which event a boundary takes. A reset overrides everything and a watchdog time-out beats an
interrupt (R210, log 12); a time-out exists only while WDTE is 1 (R220); a sleeping core executes
nothing (R193) and wakes on a request whatever GIE is (R227), and its run is over exactly when WDTE
is 0 and no sample is left (R247(a), log 9); the interrupt check needs GIE and is not made after a
wake-up step (R204, R205). -/
def State.boundaryEvent (s : State) : BoundaryEvent :=
  if s.input.mclr then .externalReset
  else if s.wdte && s.input.wdtTimeout then
    if s.asleep then .watchdogWake else .watchdogReset
  else if s.asleep then
    if s.input.irqPending then .interruptWake
    else if !s.wdte && s.inputs.isEmpty then .noWakeLeft else .sleeping
  else if s.gie && s.input.irqPending && !s.wokeUp then .interruptEntry
  else .instruction

/-- R46, "other resets": what MCLR and a watchdog reset share. W, Z, DC, C, FSR, INTCON<0>, RAM and
the program are kept. -/
def State.otherReset (s : State) (nTO nPD : Bool) : State :=
  { s with
    pc := Config.resetVector
    status := setBitTo (setBitTo (s.status &&& 0x07#8) Config.bitNTO nTO) Config.bitNPD nPD
    pclath := 0#5
    intcon := s.intcon &&& 0x01#8
    stack := []
    wdt := 0
    wdtPrescaler := 0
    asleep := false
    wokeUp := false }

/-- R221. -/
def State.watchdogReset (s : State) : State := s.otherReset false true

/-- R46, R241: MCLR while running keeps nTO and nPD; during sleep it leaves nTO = 1, nPD = 0. -/
def State.externalReset (s : State) : State :=
  if s.asleep then s.otherReset true false else s.otherReset s.nTO s.nPD

/-- R222: nTO <- 0, awake; the instruction after the SLEEP executes next. -/
def State.watchdogWake (s : State) : State :=
  { s with status := setBitTo s.status Config.bitNTO false, asleep := false, wokeUp := true }

/-- R227(c): awake, and nothing else. -/
def State.interruptWake (s : State) : State := { s with asleep := false, wokeUp := true }

/-- R43: an enabled watchdog counts while a step executes (log 8). -/
def State.elapse (s : State) : State :=
  if s.wdte then
    { s with
      wdt := s.wdt + s.input.wdtCounts
      wdtPrescaler := s.wdtPrescaler + s.input.prescalerCounts }
  else s

/-- The boundary's sample is used up (log 6). No device writes a register, INTCON<6:0> included
(DESIGN CHOICE, log 26). -/
def State.passBoundary (s : State) : State := { s with inputs := s.inputs.tail }

/-- What follows a completed instruction: the watchdog has counted, the sample is used up, and the
exemption after a wake-up ends (R227). -/
def State.retire (s : State) : State := { s.elapse.passBoundary with wokeUp := false }

end Sys2Proof.Machine
end

