-- ==== Sys2Proof/Decode.lean ====
section
/-! DEFINITION. Decoding and encoding, spec/30_encoding.md R90 to R102: the opcode map with its match
and mask values, operand extraction, the total decoder that rejects by name, and the encoder. -/

namespace Sys2Proof

/-- Why a word or a word of a program image is no instruction. -/
inductive DecodeError where
  /-- R100: one of the 376 words that match no row of the opcode map. -/
  | unassignedEncoding (w : CodeWord)
  /-- R101: a word of a program image with a bit above bit 13 set does not exist in program memory. -/
  | wordTooWide (n : Nat)
deriving DecidableEq, Repr

/-- R97: `f = word[6:0]`. -/
def fieldF (w : CodeWord) : Nat := (w.extractLsb' 0 7).toNat

/-- R97: `d = word[7]`. -/
def fieldD (w : CodeWord) : Nat := (w.extractLsb' 7 1).toNat

/-- R97: `b = word[9:7]`. -/
def fieldB (w : CodeWord) : Nat := (w.extractLsb' 7 3).toNat

/-- R97: `k8 = word[7:0]`. -/
def fieldK8 (w : CodeWord) : Nat := (w.extractLsb' 0 8).toNat

/-- R97: `k11 = word[10:0]`. -/
def fieldK11 (w : CodeWord) : Nat := (w.extractLsb' 0 11).toNat

/-- One row of the opcode map (R98): a word spells the row's instruction exactly when its bits under
`mask` are `pattern`. -/
structure OpcodeRow where
  mask : CodeWord
  pattern : CodeWord
  build : CodeWord → Instr

/-- R98: whether a word spells the row's instruction. -/
def OpcodeRow.matchesWord (r : OpcodeRow) (w : CodeWord) : Bool := (w &&& r.mask) == r.pattern

/-- The byte-oriented rows and the no-operand rows of R98 (bits 13:12 = 00, R91, R92, R96). -/
def byteRows : List OpcodeRow :=
  [ ⟨0x3F00#14, 0x0700#14, fun w => .addwf (fieldF w) (fieldD w)⟩,
    ⟨0x3F00#14, 0x0500#14, fun w => .andwf (fieldF w) (fieldD w)⟩,
    ⟨0x3F80#14, 0x0180#14, fun w => .clrf (fieldF w)⟩,
    ⟨0x3F80#14, 0x0100#14, fun _ => .clrw⟩,
    ⟨0x3F00#14, 0x0900#14, fun w => .comf (fieldF w) (fieldD w)⟩,
    ⟨0x3F00#14, 0x0300#14, fun w => .decf (fieldF w) (fieldD w)⟩,
    ⟨0x3F00#14, 0x0B00#14, fun w => .decfsz (fieldF w) (fieldD w)⟩,
    ⟨0x3F00#14, 0x0A00#14, fun w => .incf (fieldF w) (fieldD w)⟩,
    ⟨0x3F00#14, 0x0F00#14, fun w => .incfsz (fieldF w) (fieldD w)⟩,
    ⟨0x3F00#14, 0x0400#14, fun w => .iorwf (fieldF w) (fieldD w)⟩,
    ⟨0x3F00#14, 0x0800#14, fun w => .movf (fieldF w) (fieldD w)⟩,
    ⟨0x3F80#14, 0x0080#14, fun w => .movwf (fieldF w)⟩,
    ⟨0x3F9F#14, 0x0000#14, fun _ => .nop⟩,
    ⟨0x3F00#14, 0x0D00#14, fun w => .rlf (fieldF w) (fieldD w)⟩,
    ⟨0x3F00#14, 0x0C00#14, fun w => .rrf (fieldF w) (fieldD w)⟩,
    ⟨0x3F00#14, 0x0200#14, fun w => .subwf (fieldF w) (fieldD w)⟩,
    ⟨0x3F00#14, 0x0E00#14, fun w => .swapf (fieldF w) (fieldD w)⟩,
    ⟨0x3F00#14, 0x0600#14, fun w => .xorwf (fieldF w) (fieldD w)⟩ ]

/-- The bit-oriented rows of R98 (bits 13:12 = 01, R93). -/
def bitRows : List OpcodeRow :=
  [ ⟨0x3C00#14, 0x1000#14, fun w => .bcf (fieldF w) (fieldB w)⟩,
    ⟨0x3C00#14, 0x1400#14, fun w => .bsf (fieldF w) (fieldB w)⟩,
    ⟨0x3C00#14, 0x1800#14, fun w => .btfsc (fieldF w) (fieldB w)⟩,
    ⟨0x3C00#14, 0x1C00#14, fun w => .btfss (fieldF w) (fieldB w)⟩ ]

/-- The literal, transfer and system rows of R98 (R94, R95, R96). -/
def literalRows : List OpcodeRow :=
  [ ⟨0x3E00#14, 0x3E00#14, fun w => .addlw (fieldK8 w)⟩,
    ⟨0x3F00#14, 0x3900#14, fun w => .andlw (fieldK8 w)⟩,
    ⟨0x3800#14, 0x2000#14, fun w => .call (fieldK11 w)⟩,
    ⟨0x3FFF#14, 0x0064#14, fun _ => .clrwdt⟩,
    ⟨0x3800#14, 0x2800#14, fun w => .goto (fieldK11 w)⟩,
    ⟨0x3F00#14, 0x3800#14, fun w => .iorlw (fieldK8 w)⟩,
    ⟨0x3C00#14, 0x3000#14, fun w => .movlw (fieldK8 w)⟩,
    ⟨0x3FFF#14, 0x0009#14, fun _ => .retfie⟩,
    ⟨0x3C00#14, 0x3400#14, fun w => .retlw (fieldK8 w)⟩,
    ⟨0x3FFF#14, 0x0008#14, fun _ => .ret⟩,
    ⟨0x3FFF#14, 0x0063#14, fun _ => .sleep⟩,
    ⟨0x3E00#14, 0x3C00#14, fun w => .sublw (fieldK8 w)⟩,
    ⟨0x3F00#14, 0x3A00#14, fun w => .xorlw (fieldK8 w)⟩ ]

/-- R98: the complete opcode map, 35 rows in the table's order. -/
def opcodeTable : List OpcodeRow := byteRows ++ bitRows ++ literalRows

/-- R101: the instruction a word spells. Don't-care bits are ignored (R99, log 19); a word that
matches no row is rejected by name (R100). -/
def decode (w : CodeWord) : Except DecodeError Instr :=
  match opcodeTable.find? (·.matchesWord w) with
  | some r => .ok (r.build w)
  | none => .error (.unassignedEncoding w)

/-- R101: a word of a program image, given as a number, is a program word only if it has 14 bits. -/
def imageWord (n : Nat) : Except DecodeError CodeWord :=
  if n < 16384 then .ok (BitVec.ofNat 14 n) else .error (.wordTooWide n)

/-- R101 on a word of a program image: total on any number, rejecting by name. -/
def decodeImageWord (n : Nat) : Except DecodeError Instr :=
  match imageWord n with
  | .ok w => decode w
  | .error e => .error e

/-- The program word of `nbits` numbered bits `w`, the bits above them 0: a number that does not fit
into `nbits` bits, or into the 14 of a program word (R101), is none. -/
def tableWord (nbits w : Nat) : Except DecodeError CodeWord :=
  if w < 2 ^ nbits then imageWord w else .error (.wordTooWide w)

/-- The instruction the decoder reads from an instruction word whose bits are `w`, of which the
opcode table numbers the lowest `nbits` (the bits above are 0). The hardware stores the word as one
unit of program memory, so it has no byte order (spec/20_memory.md R71). -/
def decodeTableWord (nbits w : Nat) : Option Instr :=
  match tableWord nbits w with
  | .ok c => (decode c).toOption
  | .error _ => none

/-- R92: the byte-oriented format. -/
def encodeByteOp (op : CodeWord) (f d : Nat) : CodeWord :=
  op ||| ((BitVec.ofNat 1 d).setWidth 14 <<< 7) ||| (BitVec.ofNat 7 f).setWidth 14

/-- R92: a byte-oriented word whose bit 7 belongs to the opcode (CLRF, MOVWF). -/
def encodeFileOp (op : CodeWord) (f : Nat) : CodeWord :=
  op ||| (BitVec.ofNat 7 f).setWidth 14

/-- R93: the bit-oriented format. -/
def encodeBitOp (op : CodeWord) (f b : Nat) : CodeWord :=
  op ||| ((BitVec.ofNat 3 b).setWidth 14 <<< 7) ||| (BitVec.ofNat 7 f).setWidth 14

/-- R94: the literal format. -/
def encodeLiteral (op : CodeWord) (k : Nat) : CodeWord :=
  op ||| (BitVec.ofNat 8 k).setWidth 14

/-- R95: the CALL and GOTO format. -/
def encodeTarget (op : CodeWord) (k : Nat) : CodeWord :=
  op ||| (BitVec.ofNat 11 k).setWidth 14

/-- R102: the word of a well-formed instruction, every don't-care bit 0 (R99). An operand outside
its range has no encoding (R110); here it would lose its high bits, so the round trip is claimed of
well-formed instructions only. -/
def encode : Instr → CodeWord
  | .addwf f d => encodeByteOp 0x0700#14 f d
  | .andwf f d => encodeByteOp 0x0500#14 f d
  | .clrf f => encodeFileOp 0x0180#14 f
  | .clrw => 0x0100#14
  | .comf f d => encodeByteOp 0x0900#14 f d
  | .decf f d => encodeByteOp 0x0300#14 f d
  | .decfsz f d => encodeByteOp 0x0B00#14 f d
  | .incf f d => encodeByteOp 0x0A00#14 f d
  | .incfsz f d => encodeByteOp 0x0F00#14 f d
  | .iorwf f d => encodeByteOp 0x0400#14 f d
  | .movf f d => encodeByteOp 0x0800#14 f d
  | .movwf f => encodeFileOp 0x0080#14 f
  | .nop => 0x0000#14
  | .rlf f d => encodeByteOp 0x0D00#14 f d
  | .rrf f d => encodeByteOp 0x0C00#14 f d
  | .subwf f d => encodeByteOp 0x0200#14 f d
  | .swapf f d => encodeByteOp 0x0E00#14 f d
  | .xorwf f d => encodeByteOp 0x0600#14 f d
  | .bcf f b => encodeBitOp 0x1000#14 f b
  | .bsf f b => encodeBitOp 0x1400#14 f b
  | .btfsc f b => encodeBitOp 0x1800#14 f b
  | .btfss f b => encodeBitOp 0x1C00#14 f b
  | .addlw k => encodeLiteral 0x3E00#14 k
  | .andlw k => encodeLiteral 0x3900#14 k
  | .call k => encodeTarget 0x2000#14 k
  | .clrwdt => 0x0064#14
  | .goto k => encodeTarget 0x2800#14 k
  | .iorlw k => encodeLiteral 0x3800#14 k
  | .movlw k => encodeLiteral 0x3000#14 k
  | .retfie => 0x0009#14
  | .retlw k => encodeLiteral 0x3400#14 k
  | .ret => 0x0008#14
  | .sleep => 0x0063#14
  | .sublw k => encodeLiteral 0x3C00#14 k
  | .xorlw k => encodeLiteral 0x3A00#14 k

end Sys2Proof
end

