-- ==== Sys2Proof/Machine/Fetch.lean ====
section
/-! DEFINITION. Instruction fetch (spec/20_memory.md R60, spec/30_encoding.md R100, R101), the loader of
a program image (R101), and the placing of one instruction where the next step fetches. -/

namespace Sys2Proof.Machine

/-- R60: `Fetch(pc)`. The spec's own refusals: nothing placed there, or a word that spells no
instruction (R100). -/
def State.fetch (s : State) : Except Refusal Instr :=
  match s.prog.lookup s.pc.toNat with
  | none => .error (.noInstructionAt s.pc)
  | some w =>
    match decode w with
    | .ok i => .ok i
    | .error _ => .error (.unassignedEncoding w)

/-- A boundary sample with no reset, no time-out and no request. -/
def BoundaryInput.quiet (i : BoundaryInput) : BoundaryInput :=
  { i with irqPending := false, wdtTimeout := false, mclr := false }

/-- A program image: (address, word) pairs as whoever loads it gives them, both plain numbers. -/
abbrev Image := List (Nat × Nat)

/-- Why a program image is refused. -/
inductive LoadError where
  /-- R101: a word with a bit above bit 13 set makes the image malformed. -/
  | wordTooWide (address word : Nat)
  /-- R41: program memory has the addresses 0000h to 1FFFh only. -/
  | outsideProgramMemory (address : Nat)
  /-- Two words at one address. DESIGN CHOICE (log 16): R41 has one word at an address, and the spec
  does not say what becomes of a second. -/
  | addressTwice (address : Nat)
deriving DecidableEq, Repr

/-- R101: the program memory a whole image fills. A malformed image is refused, and nothing of it is
loaded. -/
def loadImage : Image → Except LoadError ProgramMemory
  | [] => .ok []
  | (a, n) :: rest =>
    match imageWord n, loadImage rest with
    | .error _, _ => .error (.wordTooWide a n)
    | .ok _, .error e => .error e
    | .ok w, .ok p =>
      if Config.progWords ≤ a then .error (.outsideProgramMemory a)
      else if (p.lookup a).isSome then .error (.addressTwice a)
      else .ok (p.place a w)

/-- R101: the machine with a program loaded in place of the one it had, or the refusal of the image
(log 16). -/
def State.loadProgram (s : State) (image : Image) : Except LoadError State :=
  match loadImage image with
  | .ok p => .ok { s with prog := p }
  | .error e => .error e

/-- The load of the one word with the `nbits` numbered bits `w` at the pc, or its refusal (R101). -/
def State.loadAtPc (s : State) (nbits w : Nat) : Except LoadError State :=
  match tableWord nbits w with
  | .ok c => .ok { s with prog := s.prog.place s.pc.toNat c }
  | .error _ => .error (.wordTooWide s.pc.toNat w)

/-- The state with no instruction at the pc. -/
def State.clearAtPc (s : State) : State := { s with prog := s.prog.clear s.pc.toNat }

/-- The core awake with a quiet sample at this boundary, so that the next step executes the
instruction at the pc (log 16). -/
def State.readyToRun (s : State) : State :=
  { s with
    asleep := false
    inputs := match s.inputs with
      | [] => []
      | i :: rest => i.quiet :: rest }

end Sys2Proof.Machine
end

