-- ==== Sys2Proof/Machine/Step.lean ====
section
/-! DEFINITION. One step of the machine: the event of the boundary (spec/60_exceptions.md R205, R210)
or the instruction at the pc (spec/00_scope.md R11, R12). -/

namespace Sys2Proof.Machine

/-- The instruction at the pc executes and retires. -/
def runInstruction (s : State) : Host.Outcome State Fault Refusal :=
  match s.fetch with
  | .error r => .refused r
  | .ok i =>
    match exec i s with
    | .next t => .next t.retire
    | .fault e => .fault e
    | .refused r => .refused r

/-- One step: R205, R206, R210, R220 to R222, R227, R193, R241, and otherwise the instruction. -/
def step (s : State) : Host.Outcome State Fault Refusal :=
  match s.boundaryEvent with
  | .externalReset => .next s.externalReset.passBoundary
  | .watchdogReset => .next s.watchdogReset.passBoundary
  | .watchdogWake => .next s.watchdogWake.passBoundary
  | .interruptWake => .next s.interruptWake.passBoundary
  | .sleeping => .next s.elapse.passBoundary
  | .noWakeLeft => .fault .asleepNoWake
  | .interruptEntry => orFault s.passBoundary.takeInterrupt
  | .instruction => runInstruction s

/-- The state with the instruction whose bits are `w`, of which the opcode table numbers the lowest
`nbits`, placed where the next step fetches, the core awake and the boundary quiet. Where the load is
refused (`State.loadAtPc`, R101) there is no instruction at the pc, and the next step is refused
(log 16). -/
def State.withFetchWord (s : State) (nbits w : Nat) : State :=
  match s.loadAtPc nbits w with
  | .ok t => t.readyToRun
  | .error _ => s.clearAtPc.readyToRun

end Sys2Proof.Machine
end

