-- ==== Sys2Proof/Machine/Assembler.lean ====
section
/-! DEFINITION. The assembly text of spec/30_encoding.md R103 to R111: line format, operand and number
forms, macros, Include and the assembler's symbols, down to decoded instructions and their words.
Nothing of the machine reads it; it is how a program is written before it is loaded (log 22). Text
is a list of characters, so that the kernel can evaluate it. -/

namespace Sys2Proof.Asm

/-- A piece of source text. -/
abbrev Text := List Char

/-- Why a source text is refused. -/
inductive AsmError where
  /-- R109: neither an instruction of the table nor a macro defined before (a pseudo-instruction, a
  directive), refused by name. -/
  | unknownMnemonic (name : Text)
  /-- R111: a symbol whose value was not given. -/
  | unknownSymbol (name : Text)
  /-- R109: two words at the start of a line, none of which is an instruction, a macro defined before,
  or a word of `outsideSpec`: refused with both names, since either may be meant as the operation. -/
  | neitherOperation (first second : Text)
  /-- R103, R105: the operands are not those of the instruction (`d` must be written). -/
  | wrongOperands (mnemonic : Text)
  /-- R110: an operand outside its range. -/
  | malformedOperand (i : Instr)
  /-- R108: the named file is not among the source files. -/
  | fileNotFound (path : Text)
  /-- R108: files that include each other without end. -/
  | includeTooDeep
  /-- R107: an `endm` without `macro` or with a label or operands, a `macro` without a name or inside
  another, or no `endm`. -/
  | badMacro
  /-- Operands after `macro` or after the name of a macro. DESIGN CHOICE (log 22): the spec shows no
  macro with parameters (R107) and gives such operands no meaning. -/
  | macroOperands (name : Text)
  /-- R41: the program does not fit into the 8192 words. -/
  | programTooLong
deriving DecidableEq, Repr

/-! ### Characters and numbers -/

def isSpace (c : Char) : Bool := c == ' ' || c == '\t' || c == '\r'

/-- The double quote that encloses an Include path. -/
def quoteChar : Char := Char.ofNat 34

def dropSpace (t : Text) : Text := t.dropWhile isSpace

def trim (t : Text) : Text := (dropSpace (dropSpace t).reverse).reverse

def takeWord (t : Text) : Text := (dropSpace t).takeWhile (fun c => !isSpace c)

def dropWord (t : Text) : Text := (dropSpace t).dropWhile (fun c => !isSpace c)

/-- R104: mnemonics are read without regard to case. -/
def lower (t : Text) : Text := t.map Char.toLower

/-- The text up to each separator. -/
def splitAtChar (sep : Char) : Text → List Text
  | [] => [[]]
  | c :: rest =>
    match splitAtChar sep rest with
    | [] => [[c]]
    | w :: ws => if c == sep then [] :: w :: ws else (c :: w) :: ws

def digitValue (c : Char) : Option Nat :=
  if '0'.toNat ≤ c.toNat ∧ c.toNat ≤ '9'.toNat then some (c.toNat - '0'.toNat)
  else if 'a'.toNat ≤ c.toNat ∧ c.toNat ≤ 'f'.toNat then some (c.toNat - 'a'.toNat + 10)
  else if 'A'.toNat ≤ c.toNat ∧ c.toNat ≤ 'F'.toNat then some (c.toNat - 'A'.toNat + 10)
  else none

def digitsFrom (base acc : Nat) : Text → Option Nat
  | [] => some acc
  | c :: rest =>
    match digitValue c with
    | some v => if v < base then digitsFrom base (acc * base + v) rest else none
    | none => none

/-- One or more digits of a base. -/
def digits (base : Nat) (t : Text) : Option Nat := if t.isEmpty then none else digitsFrom base 0 t

/-- R106: decimal without a mark, `0x…`, `B'…'`, and hexadecimal with a trailing `h` after a decimal
first digit. -/
def number (t : Text) : Option Nat :=
  match t with
  | '0' :: 'x' :: ds => digits 16 ds
  | 'B' :: '\'' :: ds =>
    match ds.reverse with
    | '\'' :: bs => digits 2 (bs.reverse.filter (fun c => !isSpace c))
    | _ => none
  | c :: _ =>
    if c.isDigit then
      match t.reverse with
      | 'h' :: hs => digits 16 hs.reverse
      | _ => digits 10 t
    else none
  | [] => none

/-! ### Symbols -/

/-- R27, R111: the names the assembler provides. -/
def builtinSymbols : List (Text × Nat) :=
  [ ("W".toList, 0), ("F".toList, 1),
    ("INDF".toList, 0x00), ("PCL".toList, 0x02), ("STATUS".toList, 0x03), ("FSR".toList, 0x04),
    ("PCLATH".toList, 0x0A), ("INTCON".toList, 0x0B),
    ("C".toList, 0), ("DC".toList, 1), ("Z".toList, 2), ("RP0".toList, 5), ("RP1".toList, 6),
    ("GIE".toList, 7) ]

/-- R111: the values a transcriber is given: the programmer's symbols, and the labels with their
program addresses. -/
structure Symbols where
  user : List (Text × Nat)
  labels : List (Text × Nat)
deriving DecidableEq, Repr

/-- What the text of an operand stands for. -/
inductive Meaning where
  | value (n : Nat)
  /-- A label, with the program address it names. -/
  | label (address : Nat)
deriving DecidableEq, Repr

/-- R105, R111: an operand is a number or a name with a value. DESIGN CHOICE (log 22): a text with
more than one reading is a number, else the assembler's name, else the programmer's symbol, else a
label; the spec does not order them. -/
def meaningOf (s : Symbols) (t : Text) : Except AsmError Meaning :=
  match number t, builtinSymbols.lookup t, s.user.lookup t, s.labels.lookup t with
  | some n, _, _, _ => .ok (.value n)
  | none, some n, _, _ => .ok (.value n)
  | none, none, some n, _ => .ok (.value n)
  | none, none, none, some a => .ok (.label a)
  | none, none, none, none => .error (.unknownSymbol t)

/-- The value of an operand other than a target. DESIGN CHOICE (log 22): a label stands for its whole
address there, which R110 then holds to the operand's range. -/
def operandValue (s : Symbols) (t : Text) : Except AsmError Nat :=
  match meaningOf s t with
  | .ok (.value n) => .ok n
  | .ok (.label a) => .ok a
  | .error e => .error e

/-- R110: a label used as the target of CALL or GOTO contributes its low 11 bits. -/
def targetValue (s : Symbols) (t : Text) : Except AsmError Nat :=
  match meaningOf s t with
  | .ok (.value n) => .ok n
  | .ok (.label a) => .ok (a % 2048)
  | .error e => .error e

/-! ### Instructions -/

/-- The operand forms of R103, R105. -/
inductive Shape where
  | fileDest (mk : Nat → Nat → Instr)
  | file (mk : Nat → Instr)
  | fileBit (mk : Nat → Nat → Instr)
  | literal (mk : Nat → Instr)
  | target (mk : Nat → Instr)
  | bare (i : Instr)

/-- The mnemonics of spec/opcode_table.json with their operand forms. -/
def mnemonicTable : List (Text × Shape) :=
  [ ("addwf".toList, .fileDest .addwf), ("andwf".toList, .fileDest .andwf),
    ("clrf".toList, .file .clrf), ("clrw".toList, .bare .clrw),
    ("comf".toList, .fileDest .comf), ("decf".toList, .fileDest .decf),
    ("decfsz".toList, .fileDest .decfsz), ("incf".toList, .fileDest .incf),
    ("incfsz".toList, .fileDest .incfsz), ("iorwf".toList, .fileDest .iorwf),
    ("movf".toList, .fileDest .movf), ("movwf".toList, .file .movwf),
    ("nop".toList, .bare .nop), ("rlf".toList, .fileDest .rlf),
    ("rrf".toList, .fileDest .rrf), ("subwf".toList, .fileDest .subwf),
    ("swapf".toList, .fileDest .swapf), ("xorwf".toList, .fileDest .xorwf),
    ("bcf".toList, .fileBit .bcf), ("bsf".toList, .fileBit .bsf),
    ("btfsc".toList, .fileBit .btfsc), ("btfss".toList, .fileBit .btfss),
    ("addlw".toList, .literal .addlw), ("andlw".toList, .literal .andlw),
    ("call".toList, .target .call), ("clrwdt".toList, .bare .clrwdt),
    ("goto".toList, .target .goto), ("iorlw".toList, .literal .iorlw),
    ("movlw".toList, .literal .movlw), ("retfie".toList, .bare .retfie),
    ("retlw".toList, .literal .retlw), ("return".toList, .bare .ret),
    ("sleep".toList, .bare .sleep), ("sublw".toList, .literal .sublw),
    ("xorlw".toList, .literal .xorlw) ]

/-- R110: an instruction is formed only with every operand in its range. -/
def inRange (i : Instr) : Except AsmError Instr :=
  if i.wellFormed then .ok i else .error (.malformedOperand i)

/-- The instruction with two operands of known or unknown value. -/
def form2 (mk : Nat → Nat → Instr) : Except AsmError Nat → Except AsmError Nat → Except AsmError Instr
  | .ok a, .ok b => inRange (mk a b)
  | .error e, _ => .error e
  | .ok _, .error e => .error e

/-- The instruction with one operand of known or unknown value. -/
def form1 (mk : Nat → Instr) : Except AsmError Nat → Except AsmError Instr
  | .ok a => inRange (mk a)
  | .error e => .error e

/-- R103, R105: one mnemonic with its operands. -/
def instrOf (s : Symbols) (mnemonic : Text) (operands : List Text) : Except AsmError Instr :=
  match mnemonicTable.lookup (lower mnemonic), operands with
  | none, _ => .error (.unknownMnemonic mnemonic)
  | some (.fileDest mk), [f, d] => form2 mk (operandValue s f) (operandValue s d)
  | some (.file mk), [f] => form1 mk (operandValue s f)
  | some (.fileBit mk), [f, b] => form2 mk (operandValue s f) (operandValue s b)
  | some (.literal mk), [k] => form1 mk (operandValue s k)
  | some (.target mk), [k] => form1 mk (targetValue s k)
  | some (.bare i), [] => inRange i
  | some _, _ => .error (.wrongOperands mnemonic)

/-! ### Lines -/

/-- R103: an optional label, and an optional mnemonic (empty: none) with its operands. -/
structure Line where
  label : Option Text
  op : Text
  operands : List Text
deriving DecidableEq, Repr

/-- R103: the operands stand between commas; white space around one is dropped. -/
def operandsOf (t : Text) : List Text :=
  if (trim t).isEmpty then [] else (splitAtChar ',' t).map trim

/-- The pseudo-instructions and directives that R109 names as outside the spec. -/
def outsideSpec : List Text :=
  [ "banksel".toList, "pagesel".toList, "skpc".toList, "bz".toList,
    "org".toList, "equ".toList, "end".toList, "list".toList, "__config".toList ]

/-- Whether a word stands in the mnemonic position wherever it stands: an instruction, a macro
defined before, or a word of R107 and R108. -/
def isOperation (macros : List Text) (w : Text) : Bool :=
  (mnemonicTable.lookup (lower w)).isSome || macros.contains w ||
    lower w == "macro".toList || lower w == "endm".toList || lower w == "include".toList

/-- R109: whether a word is one that R109 names as outside the spec. -/
def isOutsideSpec (w : Text) : Bool := outsideSpec.contains (lower w)

/-- R103: whether `first`, which is no operation and starts a line that goes on with `second`, is a
label: a label stands before an operation. An unknown word alone, and a word of R109 before no
operation, are the line's mnemonic, which R109 refuses by name. -/
def isLabel (macros : List Text) (first second : Text) : Bool :=
  isOperation macros second || isOutsideSpec second ||
    (!second.isEmpty && !isOutsideSpec first)

/-- R103: one source line. The comment is cut at the semicolon. The first word is a label when the
line does not begin with white space, the word is no operation and `isLabel` holds. DESIGN CHOICE
(log 22): a label is any run of characters without white space or semicolon, so that a colon after it
is a part of its name (`Loop:` defines `Loop:` and not `Loop`), because the source shows no colon and
the spec gives it no meaning (R103; 91_not_in_source.md N26). -/
def parseLine (macros : List Text) (raw : Text) : Line :=
  let t := raw.takeWhile (fun c => !(c == ';'))
  let first := takeWord t
  let second := takeWord (dropWord t)
  let indented := match t with
    | c :: _ => isSpace c
    | [] => true
  if first.isEmpty then ⟨none, [], []⟩
  else if indented || isOperation macros first || !isLabel macros first second then
    ⟨none, first, operandsOf (dropWord t)⟩
  else ⟨some first, second, operandsOf (dropWord (dropWord t))⟩

/-! ### Include and macros -/

/-- The text between a first and a last double quote. -/
def quoted : Text → Option Text
  | [] => none
  | q :: rest =>
    match rest.reverse with
    | [] => none
    | r :: path => if q == quoteChar && r == quoteChar then some path.reverse else none

/-- R108: the path of an Include line, if the line is one. DESIGN CHOICE (log 22): a line with a label
or with anything but one path in quotes is no Include line, and is refused as an unknown mnemonic. -/
def includePath (raw : Text) : Option Text :=
  let l := parseLine [] raw
  if lower l.op == "include".toList && l.label.isNone then
    quoted (trim (dropWord (raw.takeWhile (fun c => !(c == ';')))))
  else none

/-- R108: the lines of a text with every Include line replaced by the named file's text; `depth`
bounds the nesting. -/
def expandIncludes (files : List (Text × Text)) : Nat → Text → Except AsmError (List Text)
  | 0, _ => .error .includeTooDeep
  | depth + 1, t =>
    (splitAtChar '\n' t).foldr
      (fun raw acc =>
        match acc with
        | .error e => .error e
        | .ok ls =>
          match includePath raw with
          | none => .ok (raw :: ls)
          | some p =>
            match files.lookup p with
            | none => .error (.fileNotFound p)
            | some body =>
              match expandIncludes files depth body with
              | .ok ms => .ok (ms ++ ls)
              | .error e => .error e)
      (.ok [])

/-- The state of macro expansion: the macros defined so far with their bodies, the definition in
progress, and the lines emitted. -/
structure Expansion where
  macros : List (Text × List Line) := []
  current : Option (Text × List Line) := none
  out : List Line := []
deriving DecidableEq, Repr

/-- Lines go to the definition in progress, or to the output. -/
def Expansion.emit (x : Expansion) (ls : List Line) : Expansion :=
  match x.current with
  | some (n, body) => { x with current := some (n, body ++ ls) }
  | none => { x with out := x.out ++ ls }

/-- R107: a definition emits nothing; an invocation is replaced by one copy of the body. DESIGN CHOICE
(log 22): operands after `macro` or after a macro's name are refused, because the spec shows no macro
with parameters; a definition inside another is refused; a macro calls only macros defined before
it. -/
def expandLine (x : Expansion) (raw : Text) : Except AsmError Expansion :=
  let l := parseLine (x.macros.map (·.1)) raw
  if lower l.op == "macro".toList then
    match l.label, x.current, l.operands with
    | some n, none, [] => .ok { x with current := some (n, []) }
    | some n, none, _ :: _ => .error (.macroOperands n)
    | _, _, _ => .error .badMacro
  else if lower l.op == "endm".toList then
    match x.current, l.label, l.operands with
    | some (n, body), none, [] => .ok { x with macros := (n, body) :: x.macros, current := none }
    | _, _, _ => .error .badMacro
  else
    match x.macros.lookup l.op, l.operands with
    | some body, [] => .ok (x.emit (⟨l.label, [], []⟩ :: body))
    | some _, _ :: _ => .error (.macroOperands l.op)
    | none, _ => .ok (x.emit [l])

/-- R107: the lines of a program with its macros expanded. -/
def expandMacros (raws : List Text) : Except AsmError (List Line) :=
  match raws.foldlM expandLine {} with
  | .error e => .error e
  | .ok x => if x.current.isSome then .error .badMacro else .ok x.out

/-! ### Programs -/

/-- R103: a label names the program address of the instruction on its line; instructions follow one
another from `address` on. DESIGN CHOICE (log 22): a label before a macro call names the next
instruction emitted, and of two lines with the same label, also of two copies of a macro's body, the
first gives the address, because the list is searched from its head. -/
def labelsFrom (address : Nat) : List Line → List (Text × Nat)
  | [] => []
  | l :: rest =>
    let after := if l.op.isEmpty then address else address + 1
    match l.label with
    | some n => (n, address) :: labelsFrom after rest
    | none => labelsFrom after rest

/-- The instruction of an expanded line. R109: a line with a label before an unknown word is refused
with both, unless the word is one that R109 names or a word of R107 and R108. -/
def instrOfLine (s : Symbols) (l : Line) : Except AsmError Instr :=
  match l.label with
  | some n =>
    if isOperation [] l.op || isOutsideSpec l.op then instrOf s l.op l.operands
    else .error (.neitherOperation n l.op)
  | none => instrOf s l.op l.operands

/-- The instructions of expanded lines, in order. -/
def instrsOf (s : Symbols) : List Line → Except AsmError (List Instr)
  | [] => .ok []
  | l :: rest =>
    if l.op.isEmpty then instrsOf s rest
    else
      match instrOfLine s l, instrsOf s rest with
      | .ok i, .ok is => .ok (i :: is)
      | .error e, _ => .error e
      | .ok _, .error e => .error e

/-- R103 to R111: the decoded instructions of a source text that starts at `origin`, with the files
it may include and the values of the programmer's symbols. -/
def assemble (files : List (Text × Text)) (user : List (Text × Nat)) (origin : Nat) (source : Text) :
    Except AsmError (List Instr) :=
  match expandIncludes files (files.length + 1) source with
  | .error e => .error e
  | .ok raws =>
    match expandMacros raws with
    | .error e => .error e
    | .ok ls => instrsOf ⟨user, labelsFrom origin ls⟩ ls

/-- R41, R102: a program memory holding the words of instructions from an address on. -/
def placeAll (p : Sys2Proof.Machine.ProgramMemory) (origin : Nat) :
    List Instr → Except AsmError Sys2Proof.Machine.ProgramMemory
  | [] => .ok p
  | i :: rest =>
    if origin < Config.progWords then placeAll (p.place origin (encode i)) (origin + 1) rest
    else .error .programTooLong

end Sys2Proof.Asm
end

