-- ==== Sys2Proof/Safety.lean ====
section
/-! DEFINITION. The terms in which claims speak of runs: the invariant of the machine, launch states,
and what it is for a step to go on. -/

namespace Sys2Proof.Machine

/-- The 368 storage cells of general-purpose RAM (spec/20_memory.md R66, R67). -/
def isStorageCell (n : Nat) : Bool :=
  (decide (0x020 ≤ n) && decide (n ≤ 0x07F)) || (decide (0x0A0 ≤ n) && decide (n ≤ 0x0EF)) ||
  (decide (0x110 ≤ n) && decide (n ≤ 0x16F)) || (decide (0x190 ≤ n) && decide (n ≤ 0x1EF))

/-- What every step keeps: both memories canonical, RAM only at its storage cells, at most eight
return addresses (R38), nTO = 1 and nPD = 0 while asleep (R227), and a just-woken core awake with
nPD = 0 (R222, R227). -/
structure State.Inv (s : State) : Prop where
  ramCanonical : s.ram.wf
  ramCells : ∀ c ∈ s.ram, isStorageCell c.1 = true
  progCanonical : s.prog.wf
  stackDepth : s.stack.length ≤ Config.stackDepth
  sleepBits : s.asleep = true → s.nTO = true ∧ s.nPD = false
  wokenAwake : s.wokeUp = true → s.asleep = false ∧ s.nPD = false

/-- R242: a launch state, whatever the bits the spec calls unknown are: W, FSR, Z, DC, C, INTCON<0>
and RAM are unconstrained, and so are the program, WDTE and what the platform presents. -/
structure State.IsLaunch (s : State) : Prop where
  pc : s.pc = 0x0000#13
  stack : s.stack = []
  status : s.status.extractLsb' 3 5 = 0b00011#5
  pclath : s.pclath = 0#5
  intcon : s.intcon.extractLsb' 1 7 = 0#7
  awake : s.asleep = false
  watchdog : s.wdt = 0 ∧ s.wdtPrescaler = 0

/-- The step goes on: neither a fault nor a refusal. -/
def State.goesOn (s : State) : Prop := ∃ t, step s = .next t

end Sys2Proof.Machine
end

