-- ==== Sys2Proof/Certificates/Slice0/Obligations.lean ====
section
/-! DEFINITION. The statements for the provers, after the terms they are written in. -/

/-! ### Terms of the statements -/

namespace Sys2Proof.Claims

open Sys2Proof.Machine

/-- The data address an instruction's operand `f` resolves to in a state (the function the meanings
use, R61, R62). -/
def operandAddr (s : State) (f : Nat) : DataAddr := s.resolve (BitVec.ofNat 7 f)

/-- R66: the rows of general-purpose RAM that belong to one bank. -/
def OwnRamCell (a : DataAddr) : Prop :=
  (0x020 ≤ a.toNat ∧ a.toNat ≤ 0x06F) ∨ (0x0A0 ≤ a.toNat ∧ a.toNat ≤ 0x0EF) ∨
    (0x110 ≤ a.toNat ∧ a.toNat ≤ 0x16F) ∨ (0x190 ≤ a.toNat ∧ a.toNat ≤ 0x1EF)

/-- R66: the common row 070h-07Fh and its three mirrors. -/
def CommonRamAddr (a : DataAddr) : Prop := 0x70 ≤ a.toNat % 128

/-- R66: the four peripheral rows. -/
def PeripheralAddr (a : DataAddr) : Prop :=
  a.toNat % 128 = 0x01 ∨ (0x05 ≤ a.toNat % 128 ∧ a.toNat % 128 ≤ 0x09) ∨
    (0x0C ≤ a.toNat % 128 ∧ a.toNat % 128 ≤ 0x0F) ∨
    (0x10 ≤ a.toNat % 128 ∧ a.toNat % 128 ≤ 0x1F ∧ a.toNat < 0x100)

/-- STATUS after an instruction that does not have STATUS as its destination: the flags it lists take
their results, the others and bits 7:3 are unchanged (R47). -/
def FlagsListed (s t : State) (fl : FlagUpdate) : Prop :=
  t.flagZ = fl.z.getD s.flagZ ∧ t.flagDC = fl.dc.getD s.flagDC ∧ t.flagC = fl.c.getD s.flagC ∧
    t.status.extractLsb' 3 5 = s.status.extractLsb' 3 5

/-- STATUS written as a file register with the byte `r` (R35): bits 7:5 from the data, nTO and nPD
kept, bits 2:0 from the data only when the instruction lists none of them. -/
def StatusStored (s t : State) (r : Byte) (fl : FlagUpdate) : Prop :=
  t.status.extractLsb' 5 3 = r.extractLsb' 5 3 ∧
    t.status.extractLsb' 3 2 = s.status.extractLsb' 3 2 ∧
    (fl = {} → t.status.extractLsb' 0 3 = r.extractLsb' 0 3) ∧
    (fl ≠ {} → t.flagZ = fl.z.getD s.flagZ ∧ t.flagDC = fl.dc.getD s.flagDC ∧
      t.flagC = fl.c.getD s.flagC)

/-- `t` is `s` after the byte `r` was stored at the data address `a` by an instruction that lists the
flags `fl` and would go on at `n`: the one destination has changed, with the listed flags and the
pc, and nothing else (R63, R65, R120). -/
def StoredAt (s t : State) (a : DataAddr) (r : Byte) (n : ProgAddr) (fl : FlagUpdate) : Prop :=
  match regionOf a with
  | .ram cell =>
    t = { s with ram := s.ram.write cell r, status := t.status, pc := n } ∧ FlagsListed s t fl
  | .pcl => t = { s with status := t.status, pc := s.pclath ++ r } ∧ FlagsListed s t fl
  | .status => t = { s with status := t.status, pc := n } ∧ StatusStored s t r fl
  | .fsr => t = { s with fsr := r, status := t.status, pc := n } ∧ FlagsListed s t fl
  | .pclath =>
    t = { s with pclath := r.extractLsb' 0 5, status := t.status, pc := n } ∧ FlagsListed s t fl
  | .intcon => t = { s with intcon := r, status := t.status, pc := n } ∧ FlagsListed s t fl
  | .indf => t = { s with status := t.status, pc := n } ∧ FlagsListed s t fl
  | .unimplemented => t = { s with status := t.status, pc := n } ∧ FlagsListed s t fl
  | .peripheral => False

/-- `t` is `s` after `r` was written to W by an instruction that lists `fl` and goes on at `next`. -/
def StoredInW (s t : State) (r : Byte) (fl : FlagUpdate) : Prop :=
  t = { s with w := r, status := t.status, pc := s.pc + 1#13 } ∧ FlagsListed s t fl

/-- The words `op + 128 d + f` spell the instruction `i f d` (R92, R97). -/
def SpelledByteOp (op : Nat) (i : Nat → Nat → Instr) : Prop :=
  ∀ f d : Nat, f < 128 → d < 2 → decode (BitVec.ofNat 14 (op + 128 * d + f)) = .ok (i f d)

/-- The words `op + 128 b + f` spell the instruction `i f b` (R93, R97). -/
def SpelledBitOp (op : Nat) (i : Nat → Nat → Instr) : Prop :=
  ∀ f b : Nat, f < 128 → b < 8 → decode (BitVec.ofNat 14 (op + 128 * b + f)) = .ok (i f b)

/-- The words `op + n x + k` spell `i k` for every operand `k < n` and every value `x < xs` of the
don't-care bits above it (R94, R95, R99). -/
def SpelledWith (op n xs : Nat) (i : Nat → Instr) : Prop :=
  ∀ k x : Nat, k < n → x < xs → decode (BitVec.ofNat 14 (op + n * x + k)) = .ok (i k)

/-- An instruction `f,d` completes for every readable operand and both destinations, with the result
`res` and the listed flags `fl`, both computed from the state before and the operand read. -/
def ByteOpCompletes (i : Nat → Nat → Instr) (res : State → Byte → Byte)
    (fl : State → Byte → FlagUpdate) : Prop :=
  ∀ (s : State) (f : Nat) (v : Byte), f < 128 → s.memRead (operandAddr s f) = .ok v →
    (∃ t, exec (i f 0) s = .next t ∧ StoredInW s t (res s v) (fl s v)) ∧
    (∃ t, exec (i f 1) s = .next t ∧
      StoredAt s t (operandAddr s f) (res s v) (s.pc + 1#13) (fl s v))

/-- "Status Affected: Z": 1 exactly when the result is 00h (R16). -/
def listsZ (r : Byte) : FlagUpdate := { z := some (decide (r.toNat = 0)) }

/-- A counting instruction `f,d` that skips on 00h (R127, R129, R171): it writes its result, lists no
flag, and goes on at `next2` when the result is 00h; with PCL as its destination it is refused. -/
def SkipOpCompletes (i : Nat → Nat → Instr) (g : Byte → Byte) : Prop :=
  ∀ (s : State) (f : Nat) (v : Byte), f < 128 → s.memRead (operandAddr s f) = .ok v →
    exec (i f 0) s =
      .next { s with w := g v, pc := if g v = 0x00#8 then s.pc + 2#13 else s.pc + 1#13 } ∧
    (regionOf (operandAddr s f) ≠ .pcl →
      ∃ t, exec (i f 1) s = .next t ∧
        StoredAt s t (operandAddr s f) (g v)
          (if g v = 0x00#8 then s.pc + 2#13 else s.pc + 1#13) {}) ∧
    (regionOf (operandAddr s f) = .pcl → exec (i f 1) s = .refused .skipWithPCLDestination)

/-- An 8-bit-literal instruction completes in every state with its result in W (R160). -/
def LiteralCompletes (i : Nat → Instr) (res : State → Byte → Byte)
    (fl : State → Byte → FlagUpdate) : Prop :=
  ∀ (s : State) (k : Nat), k < 256 →
    ∃ t, exec (i k) s = .next t ∧
      StoredInW s t (res s (BitVec.ofNat 8 k)) (fl s (BitVec.ofNat 8 k))

/-- The register operand of an instruction that has one. -/
def fileOperandOf : Instr → Option Nat
  | .addwf f _ | .andwf f _ | .comf f _ | .decf f _ | .decfsz f _ | .incf f _ | .incfsz f _
  | .iorwf f _ | .movf f _ | .rlf f _ | .rrf f _ | .subwf f _ | .swapf f _ | .xorwf f _
  | .bcf f _ | .bsf f _ | .btfsc f _ | .btfss f _ => some f
  | .clrf f | .movwf f => some f
  | .clrw | .nop | .addlw _ | .andlw _ | .call _ | .clrwdt | .goto _ | .iorlw _ | .movlw _
  | .retfie | .retlw _ | .ret | .sleep | .sublw _ | .xorlw _ => none

/-- The file register an instruction has as its destination: an `f,d` instruction with `d` = 1, CLRF,
MOVWF, BCF and BSF (R20, R120, R150). -/
def destFile : Instr → Option Nat
  | .addwf f 1 | .andwf f 1 | .comf f 1 | .decf f 1 | .decfsz f 1 | .incf f 1 | .incfsz f 1
  | .iorwf f 1 | .movf f 1 | .rlf f 1 | .rrf f 1 | .subwf f 1 | .swapf f 1 | .xorwf f 1 => some f
  | .clrf f | .movwf f => some f
  | .bcf f _ | .bsf f _ => some f
  | _ => none

/-- What stands at the data address an instruction stores to, if it stores to data memory. -/
def storedRegion (i : Instr) (s : State) : Option Region :=
  (destFile i).map (fun f => regionOf (operandAddr s f))

/-- R20: the instructions that write W. -/
def writesW : Instr → Bool
  | .addwf _ 0 | .andwf _ 0 | .comf _ 0 | .decf _ 0 | .decfsz _ 0 | .incf _ 0 | .incfsz _ 0
  | .iorwf _ 0 | .movf _ 0 | .rlf _ 0 | .rrf _ 0 | .subwf _ 0 | .swapf _ 0 | .xorwf _ 0 => true
  | .clrw | .addlw _ | .andlw _ | .iorlw _ | .movlw _ | .retlw _ | .sublw _ | .xorlw _ => true
  | _ => false

/-- R47: the instructions that list Z. -/
def listsZFlag : Instr → Bool
  | .addwf _ _ | .addlw _ | .subwf _ _ | .sublw _ | .andlw _ | .andwf _ _ | .clrw | .clrf _
  | .comf _ _ | .decf _ _ | .incf _ _ | .iorlw _ | .iorwf _ _ | .movf _ _ | .xorlw _
  | .xorwf _ _ => true
  | _ => false

/-- R47: the instructions that list DC. -/
def listsDCFlag : Instr → Bool
  | .addwf _ _ | .addlw _ | .subwf _ _ | .sublw _ => true
  | _ => false

/-- R47: the instructions that list C. -/
def listsCFlag : Instr → Bool
  | .addwf _ _ | .addlw _ | .subwf _ _ | .sublw _ | .rlf _ _ | .rrf _ _ => true
  | _ => false

/-- The don't-care bits of an instruction's word (R98, R99). -/
def dontCareBits : Instr → CodeWord
  | .movlw _ | .retlw _ => 0x0300#14
  | .addlw _ | .sublw _ => 0x0100#14
  | .nop => 0x0060#14
  | .clrw => 0x007F#14
  | _ => 0x0000#14

/-- The boundary at which the instruction at the pc executes: no reset, no time-out of an enabled
watchdog, the core awake, and no interrupt to take (R205, R210, R220). -/
def RunsInstruction (s : State) : Prop :=
  s.input.mclr = false ∧ (s.wdte = true → s.input.wdtTimeout = false) ∧ s.asleep = false ∧
    (s.gie = true → s.input.irqPending = true → s.wokeUp = true)

/-- Neither an external reset nor a time-out of an enabled watchdog at this boundary. -/
def NoReset (s : State) : Prop :=
  s.input.mclr = false ∧ (s.wdte = true → s.input.wdtTimeout = false)

/-- The state after a watchdog or external reset that leaves the given nTO and nPD (R46, column
"other resets"; R221): STATUS keeps Z, DC, C, INTCON keeps bit 0; W, FSR, RAM and the program are
kept. The model's own fields `wokeUp` and `inputs` are not spoken of. -/
def afterReset (s : State) (nTO nPD : Bool) : State :=
  { s with
    pc := 0x0000#13
    status := (s.status &&& 0x07#8) ||| (if nTO then 0x10#8 else 0x00#8) |||
      (if nPD then 0x08#8 else 0x00#8)
    pclath := 0#5
    intcon := s.intcon &&& 0x01#8
    stack := []
    wdt := 0
    wdtPrescaler := 0
    asleep := false }

/-- `t` is `u` in every field the spec names; the model's own fields `wokeUp` (log 10) and `inputs`
(log 6) are left out. -/
def SameMachine (t u : State) : Prop := { t with wokeUp := u.wokeUp, inputs := u.inputs } = u

end Sys2Proof.Claims

open Sys2Proof Sys2Proof.Machine Sys2Proof.Claims

/-! ### Encoding -/

/-- A few words written out from R98, one or two of each format, decode to the instruction they stand
for. The spec marks the encoding as general knowledge (R98); a sanity statement. -/
def Obligations.HandWrittenWordsDecode : Prop :=
  decode 0b00011110100000#14 = .ok (.addwf 0x20 1) ∧
  decode 0b00001010000011#14 = .ok (.subwf 0x03 1) ∧
  decode 0b00000110100000#14 = .ok (.clrf 0x20) ∧
  decode 0b01011010000011#14 = .ok (.bsf 0x03 5) ∧
  decode 0b01111111111111#14 = .ok (.btfss 0x7F 7) ∧
  decode 0b11000000011001#14 = .ok (.movlw 0x19) ∧
  decode 0b11110100001010#14 = .ok (.sublw 0x0A) ∧
  decode 0b10000000100000#14 = .ok (.call 0x020) ∧
  decode 0b10100000010000#14 = .ok (.goto 0x010) ∧
  decode 0b00000000001001#14 = .ok .retfie ∧
  decode 0b00000001100100#14 = .ok .clrwdt

/-- R102: decoding the encoding of any instruction with operands in range gives it back, and the
encoding has every don't-care bit 0. -/
def Obligations.DecodeEncodeRoundTrip : Prop :=
  ∀ i : Instr, i.wellFormed = true →
    decode (encode i) = .ok i ∧ encode i &&& dontCareBits i = 0x0000#14

/-- R99, R101: every word that decodes spells a well-formed instruction, and encoding it again gives
the word with its don't-care bits 0. -/
def Obligations.DecodedWordReencodes : Prop :=
  ∀ (w : CodeWord) (i : Instr), decode w = .ok i →
    i.wellFormed = true ∧ encode i = w &&& ~~~(dontCareBits i)

/-- R100: the words that spell no instruction are exactly the 376 words of seven ranges, and a step
that fetches one of them is refused by name. -/
def Obligations.UnassignedWordsAreTheseRanges : Prop :=
  ∀ w : CodeWord,
    (decode w = .error (.unassignedEncoding w) ↔
      (0x0001 ≤ w.toNat ∧ w.toNat ≤ 0x0007) ∨ (0x000A ≤ w.toNat ∧ w.toNat ≤ 0x001F) ∨
      (0x0021 ≤ w.toNat ∧ w.toNat ≤ 0x003F) ∨ (0x0041 ≤ w.toNat ∧ w.toNat ≤ 0x005F) ∨
      (0x0061 ≤ w.toNat ∧ w.toNat ≤ 0x0062) ∨ (0x0065 ≤ w.toNat ∧ w.toNat ≤ 0x007F) ∨
      (0x3B00 ≤ w.toNat ∧ w.toNat ≤ 0x3BFF)) ∧
    (decode w = .error (.unassignedEncoding w) → ∀ s : State, RunsInstruction s →
      s.prog.lookup s.pc.toNat = some w → step s = .refused (.unassignedEncoding w))

/-! ### Fetch and step -/

/-- A step runs the decoded instruction: where the instruction at the pc executes and its word
decodes, the step is `exec` of that well-formed instruction, after which the sample is used up, the
exemption after a wake-up ends, and an enabled watchdog has counted. What is added around `exec` is
the model's own (logs 6, 8 and 10). -/
def Obligations.StepRunsDecodedInstruction : Prop :=
  ∀ (s : State) (w : CodeWord) (i : Instr), RunsInstruction s →
    s.prog.lookup s.pc.toNat = some w → decode w = .ok i →
    i.wellFormed = true ∧
    (∀ t, exec i s = .next t →
      step s = .next { t with
        wokeUp := false
        inputs := s.inputs.tail
        wdt := if s.wdte then t.wdt + s.input.wdtCounts else t.wdt
        wdtPrescaler :=
          if s.wdte then t.wdtPrescaler + s.input.prescalerCounts else t.wdtPrescaler }) ∧
    (∀ e, exec i s = .fault e → step s = .fault e) ∧
    (∀ r, exec i s = .refused r → step s = .refused r)

/-- R60: the fetch gives the instruction whose word the program places at the pc; where the program
places nothing, the fetch and a step that needs it are refused by name. -/
def Obligations.FetchReadsTheProgram : Prop :=
  ∀ s : State,
    (∀ (w : CodeWord) (i : Instr), s.prog.lookup s.pc.toNat = some w → decode w = .ok i →
      s.fetch = .ok i) ∧
    (s.prog.lookup s.pc.toNat = none →
      s.fetch = .error (.noInstructionAt s.pc) ∧
      (RunsInstruction s → step s = .refused (.noInstructionAt s.pc)))

/-! ### Addresses and data memory -/

/-- R61, R62: the data address of an operand is `RP1 : RP0 : f`, and `IRP : FSR` when `f` = 00h. -/
def Obligations.OperandAddressFormation : Prop :=
  ∀ (s : State) (f : Nat), f < 128 →
    (f ≠ 0 → (operandAddr s f).toNat =
      256 * (s.status.getLsbD 6).toNat + 128 * (s.status.getLsbD 5).toNat + f) ∧
    (f = 0 → (operandAddr s f).toNat = 256 * (s.status.getLsbD 7).toNat + s.fsr.toNat)

/-- R66: what every one of the 512 data addresses names. Core registers answer in all four banks, each
RAM row has its own storage cells and the common row is mirrored, the other addresses are peripheral
registers, no address is left unimplemented, and the storage cells are 368. -/
def Obligations.DataMap : Prop :=
  (∀ a : DataAddr,
    (a.toNat % 128 = 0x00 ↔ regionOf a = .indf) ∧ (a.toNat % 128 = 0x02 ↔ regionOf a = .pcl) ∧
    (a.toNat % 128 = 0x03 ↔ regionOf a = .status) ∧ (a.toNat % 128 = 0x04 ↔ regionOf a = .fsr) ∧
    (a.toNat % 128 = 0x0A ↔ regionOf a = .pclath) ∧
    (a.toNat % 128 = 0x0B ↔ regionOf a = .intcon) ∧
    (OwnRamCell a → regionOf a = .ram a.toNat) ∧
    (CommonRamAddr a → regionOf a = .ram (0x070 + a.toNat % 16)) ∧
    (PeripheralAddr a ↔ regionOf a = .peripheral) ∧
    regionOf a ≠ .unimplemented) ∧
  ((List.range 512).filter (fun n => isStorageCell n)).length = 368 ∧
  ∀ n : Nat, isStorageCell n = true ↔ ∃ a : DataAddr, regionOf a = .ram n

/-- R64: `MemRead` at every address: INDF reads 00h, PCL the low byte of `next`, STATUS, FSR and
INTCON their bytes, PCLATH its five bits, RAM its storage cell (the common row one cell for its four
addresses), and a peripheral register is refused; no other address exists (R69). -/
def Obligations.MemoryReads : Prop :=
  ∀ (s : State) (a : DataAddr),
    (a.toNat % 128 = 0x00 → s.memRead a = .ok 0x00#8) ∧
    (a.toNat % 128 = 0x02 →
      ∃ v, s.memRead a = .ok v ∧ v.toNat = ((s.pc.toNat + 1) % 8192) % 256) ∧
    (a.toNat % 128 = 0x03 → s.memRead a = .ok s.status) ∧
    (a.toNat % 128 = 0x04 → s.memRead a = .ok s.fsr) ∧
    (a.toNat % 128 = 0x0A → ∃ v, s.memRead a = .ok v ∧ v.toNat = s.pclath.toNat) ∧
    (a.toNat % 128 = 0x0B → s.memRead a = .ok s.intcon) ∧
    (OwnRamCell a → s.memRead a = .ok (s.ram.read a.toNat)) ∧
    (CommonRamAddr a → s.memRead a = .ok (s.ram.read (0x070 + a.toNat % 16))) ∧
    (PeripheralAddr a → s.memRead a = .error (.peripheralAccess a))

/-- R67, R75: a read of RAM returns the byte most recently written to the same storage cell, from
whatever address names it, and no other cell has changed. -/
def Obligations.RamReadsBackWhatWasStored : Prop :=
  ∀ (s t : State) (a b : DataAddr) (cell other : Nat) (v : Byte) (fl : FlagUpdate),
    s.ram.wf → regionOf a = .ram cell → s.memWrite a v fl = .ok t →
    (regionOf b = .ram cell → t.memRead b = .ok v) ∧
    (regionOf b = .ram other → other ≠ cell → t.memRead b = s.memRead b)

/-- R67: an operand 70h to 7Fh names the same storage cell whatever RP1 and RP0 are. -/
def Obligations.CommonRamSeenFromEveryBank : Prop :=
  ∀ (s : State) (f : Nat), 0x70 ≤ f → f < 0x80 → regionOf (operandAddr s f) = .ram f

/-! ### Arithmetic -/

/-- R14: the 8-bit sum wraps modulo 256; carry is its ninth bit, digit carry the carry out of bit 3. -/
def Obligations.AdditionCarries : Prop :=
  ∀ a b : Byte,
    (add8 a b).value.toNat = (a.toNat + b.toNat) % 256 ∧
    ((add8 a b).carry = true ↔ 256 ≤ a.toNat + b.toNat) ∧
    ((add8 a b).digitCarry = true ↔ 16 ≤ a.toNat % 16 + b.toNat % 16)

/-- R15: the difference is `(a - b) mod 256`; carry is 1 exactly when `a ≥ b`, digit carry exactly
when the low nibbles do not borrow. -/
def Obligations.SubtractionBorrows : Prop :=
  ∀ a b : Byte,
    (sub8 a b).value.toNat = (a.toNat + 256 - b.toNat) % 256 ∧
    ((sub8 a b).carry = true ↔ b.toNat ≤ a.toNat) ∧
    ((sub8 a b).digitCarry = true ↔ b.toNat % 16 ≤ a.toNat % 16)

/-! ### Byte-oriented instructions -/

/-- R121: ADDWF, for every operand that can be read and both destinations. -/
def Obligations.AddwfAddsWAndFile : Prop :=
  SpelledByteOp 0x0700 .addwf ∧
  ByteOpCompletes .addwf (fun s v => s.w + v)
    (fun s v =>
      { z := some (decide ((s.w.toNat + v.toNat) % 256 = 0))
        dc := some (decide (16 ≤ s.w.toNat % 16 + v.toNat % 16))
        c := some (decide (256 ≤ s.w.toNat + v.toNat)) })

/-- R136: SUBWF, file register minus W, C and DC meaning no borrow. -/
def Obligations.SubwfSubtractsWFromFile : Prop :=
  SpelledByteOp 0x0200 .subwf ∧
  ByteOpCompletes .subwf (fun s v => v - s.w)
    (fun s v =>
      { z := some (decide (v.toNat = s.w.toNat))
        dc := some (decide (s.w.toNat % 16 ≤ v.toNat % 16))
        c := some (decide (s.w.toNat ≤ v.toNat)) })

/-- R122, R125, R130, R138: ANDWF, COMF, IORWF, XORWF list Z only. -/
def Obligations.LogicFileInstructions : Prop :=
  (SpelledByteOp 0x0500 .andwf ∧
    ByteOpCompletes .andwf (fun s v => s.w &&& v) (fun s v => listsZ (s.w &&& v))) ∧
  (SpelledByteOp 0x0900 .comf ∧
    ByteOpCompletes .comf (fun _ v => ~~~v) (fun _ v => listsZ (~~~v))) ∧
  (SpelledByteOp 0x0400 .iorwf ∧
    ByteOpCompletes .iorwf (fun s v => s.w ||| v) (fun s v => listsZ (s.w ||| v))) ∧
  (SpelledByteOp 0x0600 .xorwf ∧
    ByteOpCompletes .xorwf (fun s v => s.w ^^^ v) (fun s v => listsZ (s.w ^^^ v)))

/-- R126, R128, R131: DECF, INCF, MOVF list Z only; a borrow or carry is not recorded. -/
def Obligations.CountAndMoveInstructions : Prop :=
  (SpelledByteOp 0x0300 .decf ∧
    ByteOpCompletes .decf (fun _ v => v - 1#8) (fun _ v => { z := some (decide (v.toNat = 1)) })) ∧
  (SpelledByteOp 0x0A00 .incf ∧
    ByteOpCompletes .incf (fun _ v => v + 1#8)
      (fun _ v => { z := some (decide (v.toNat = 255)) })) ∧
  (SpelledByteOp 0x0800 .movf ∧
    ByteOpCompletes .movf (fun _ v => v) (fun _ v => { z := some (decide (v.toNat = 0)) }))

/-- R134, R135: RLF and RRF rotate through C by one position and list C only. -/
def Obligations.RotateInstructions : Prop :=
  (SpelledByteOp 0x0D00 .rlf ∧
    ByteOpCompletes .rlf
      (fun s v => BitVec.ofNat 8 (2 * v.toNat + (s.status.getLsbD 0).toNat))
      (fun _ v => { c := some (v.getLsbD 7) })) ∧
  (SpelledByteOp 0x0C00 .rrf ∧
    ByteOpCompletes .rrf
      (fun s v => BitVec.ofNat 8 (128 * (s.status.getLsbD 0).toNat + v.toNat / 2))
      (fun _ v => { c := some (v.getLsbD 0) }))

/-- R137: SWAPF exchanges the nibbles and lists no flag. -/
def Obligations.SwapfExchangesNibbles : Prop :=
  SpelledByteOp 0x0E00 .swapf ∧
  ByteOpCompletes .swapf (fun _ v => BitVec.ofNat 8 (16 * (v.toNat % 16) + v.toNat / 16))
    (fun _ _ => {})

/-- R124, R132: CLRF and MOVWF store 00h and W, for every operand that is no peripheral register; CLRF
sets Z, MOVWF lists no flag. -/
def Obligations.ClearAndStoreInstructions : Prop :=
  (∀ f : Nat, f < 128 → decode (BitVec.ofNat 14 (0x0180 + f)) = .ok (.clrf f) ∧
    decode (BitVec.ofNat 14 (0x0080 + f)) = .ok (.movwf f)) ∧
  ∀ (s : State) (f : Nat), f < 128 → regionOf (operandAddr s f) ≠ .peripheral →
    (∃ t, exec (.clrf f) s = .next t ∧
      StoredAt s t (operandAddr s f) 0x00#8 (s.pc + 1#13) { z := some true }) ∧
    (∃ t, exec (.movwf f) s = .next t ∧ StoredAt s t (operandAddr s f) s.w (s.pc + 1#13) {})

/-- R123: CLRW clears W and sets Z, in every state, whatever its seven don't-care bits are. -/
def Obligations.ClrwClearsW : Prop :=
  (∀ x : Nat, x < 128 → decode (BitVec.ofNat 14 (0x0100 + x)) = .ok .clrw) ∧
  ∀ s : State, ∃ t, exec .clrw s = .next t ∧ StoredInW s t 0x00#8 { z := some true }

/-- R127, R129: DECFSZ and INCFSZ count, write no flag and skip on 00h; with PCL as the destination
they are refused. That PCL reached through INDF is refused too is the model's reading (log 13). -/
def Obligations.CountAndSkipInstructions : Prop :=
  (SpelledByteOp 0x0B00 .decfsz ∧ SkipOpCompletes .decfsz (fun v => v - 1#8)) ∧
  (SpelledByteOp 0x0F00 .incfsz ∧ SkipOpCompletes .incfsz (fun v => v + 1#8))

/-! ### Bit-oriented instructions -/

/-- R151, R152: BCF and BSF write the whole byte back with bit `b` cleared or set, as data. -/
def Obligations.BitWriteInstructions : Prop :=
  (SpelledBitOp 0x1000 .bcf ∧ SpelledBitOp 0x1400 .bsf) ∧
  ∀ (s : State) (f b : Nat) (v : Byte), f < 128 → b < 8 →
    s.memRead (operandAddr s f) = .ok v →
    (∃ t, exec (.bcf f b) s = .next t ∧
      StoredAt s t (operandAddr s f) (v &&& ~~~(1#8 <<< b)) (s.pc + 1#13) {}) ∧
    (∃ t, exec (.bsf f b) s = .next t ∧
      StoredAt s t (operandAddr s f) (v ||| (1#8 <<< b)) (s.pc + 1#13) {})

/-- R153, R154: BTFSS and BTFSC skip on a set and on a clear bit and change nothing but the pc. -/
def Obligations.BitTestInstructions : Prop :=
  (SpelledBitOp 0x1800 .btfsc ∧ SpelledBitOp 0x1C00 .btfss) ∧
  ∀ (s : State) (f b : Nat) (v : Byte), f < 128 → b < 8 →
    s.memRead (operandAddr s f) = .ok v →
    exec (.btfss f b) s =
      .next { s with pc := if v.getLsbD b = true then s.pc + 2#13 else s.pc + 1#13 } ∧
    exec (.btfsc f b) s =
      .next { s with pc := if v.getLsbD b = false then s.pc + 2#13 else s.pc + 1#13 }

/-! ### Literal instructions -/

/-- R161, R165: ADDLW and SUBLW (literal minus W) with C, DC and Z, in every state. -/
def Obligations.ArithmeticLiterals : Prop :=
  (SpelledWith 0x3E00 256 2 .addlw ∧
    LiteralCompletes .addlw (fun s k => s.w + k)
      (fun s k =>
        { z := some (decide ((s.w.toNat + k.toNat) % 256 = 0))
          dc := some (decide (16 ≤ s.w.toNat % 16 + k.toNat % 16))
          c := some (decide (256 ≤ s.w.toNat + k.toNat)) })) ∧
  (SpelledWith 0x3C00 256 2 .sublw ∧
    LiteralCompletes .sublw (fun s k => k - s.w)
      (fun s k =>
        { z := some (decide (k.toNat = s.w.toNat))
          dc := some (decide (s.w.toNat % 16 ≤ k.toNat % 16))
          c := some (decide (s.w.toNat ≤ k.toNat)) }))

/-- R162, R163, R166: ANDLW, IORLW, XORLW list Z only. -/
def Obligations.LogicLiterals : Prop :=
  (SpelledWith 0x3900 256 1 .andlw ∧
    LiteralCompletes .andlw (fun s k => s.w &&& k) (fun s k => listsZ (s.w &&& k))) ∧
  (SpelledWith 0x3800 256 1 .iorlw ∧
    LiteralCompletes .iorlw (fun s k => s.w ||| k) (fun s k => listsZ (s.w ||| k))) ∧
  (SpelledWith 0x3A00 256 1 .xorlw ∧
    LiteralCompletes .xorlw (fun s k => s.w ^^^ k) (fun s k => listsZ (s.w ^^^ k)))

/-- R164: MOVLW loads W and lists no flag. -/
def Obligations.MovlwLoadsW : Prop :=
  SpelledWith 0x3000 256 4 .movlw ∧
  ∀ (s : State) (k : Nat), k < 256 →
    exec (.movlw k) s = .next { s with w := BitVec.ofNat 8 k, pc := s.pc + 1#13 }

/-! ### Control transfer -/

/-- R172: CALL pushes `next` and goes to `PCLATH[4:3] : k`; on a full stack it is the model's
overflow fault (R39). -/
def Obligations.CallPushesAndJumps : Prop :=
  SpelledWith 0x2000 2048 1 .call ∧
  ∀ (s : State) (k : Nat), k < 2048 →
    (s.stack.length < 8 →
      exec (.call k) s = .next { s with
        stack := (s.pc + 1#13) :: s.stack
        pc := BitVec.ofNat 13 (2048 * (s.pclath.toNat / 8) + k) }) ∧
    (8 ≤ s.stack.length → exec (.call k) s = .fault .stackOverflow)

/-- R173: GOTO goes to `PCLATH[4:3] : k` and changes nothing else. -/
def Obligations.GotoJumps : Prop :=
  SpelledWith 0x2800 2048 1 .goto ∧
  ∀ (s : State) (k : Nat), k < 2048 →
    exec (.goto k) s =
      .next { s with pc := BitVec.ofNat 13 (2048 * (s.pclath.toNat / 8) + k) }

/-- R175, R176: RETURN and RETLW pop the pc, RETLW also loads W; on an empty stack both are the
model's underflow fault (R40). -/
def Obligations.ReturnsPopThePc : Prop :=
  (decode 0x0008#14 = .ok .ret ∧ SpelledWith 0x3400 256 4 .retlw) ∧
  ∀ (s : State) (k : Nat), k < 256 →
    (∀ v rest, s.stack = v :: rest →
      exec .ret s = .next { s with pc := v, stack := rest } ∧
      exec (.retlw k) s = .next { s with w := BitVec.ofNat 8 k, pc := v, stack := rest }) ∧
    (s.stack = [] →
      exec .ret s = .fault .stackUnderflow ∧ exec (.retlw k) s = .fault .stackUnderflow)

/-- R174: RETFIE pops the pc and sets GIE, and restores nothing else. -/
def Obligations.RetfiePopsAndSetsGie : Prop :=
  decode 0x0009#14 = .ok .retfie ∧
  ∀ s : State,
    (∀ v rest, s.stack = v :: rest →
      exec .retfie s =
        .next { s with pc := v, stack := rest, intcon := s.intcon ||| 0x80#8 }) ∧
    (s.stack = [] → exec .retfie s = .fault .stackUnderflow)

/-- The computed jump `addwf PCL,F` (R177) goes to `PCLATH[4:0] : (next[7:0] + W)`, so it lands on the
W-th word after itself exactly when PCLATH holds that word's upper address bits. The first half of
the condition R177 gives (no crossing of a multiple of 256) is not needed for the landing: NOTES.md,
"Findings". -/
def Obligations.ComputedJumpLanding : Prop :=
  ∀ s : State, ∃ t, exec (.addwf 0x02 1) s = .next t ∧
    t.pc.toNat = 256 * s.pclath.toNat + (s.pc.toNat + 1 + s.w.toNat) % 256 ∧
    (t.pc.toNat = (s.pc.toNat + 1 + s.w.toNat) % 8192 ↔
      s.pclath.toNat = ((s.pc.toNat + 1 + s.w.toNat) % 8192) / 256)

/-! ### System instructions -/

/-- R190: CLRWDT clears the watchdog and its prescaler and sets nTO and nPD. -/
def Obligations.ClrwdtClearsWatchdog : Prop :=
  decode 0x0064#14 = .ok .clrwdt ∧
  ∀ s : State, exec .clrwdt s = .next { s with
    status := s.status ||| 0x18#8, wdt := 0, wdtPrescaler := 0, pc := s.pc + 1#13 }

/-- R191: NOP only advances the pc, whatever its two don't-care bits are. -/
def Obligations.NopOnlyAdvances : Prop :=
  (∀ x : Nat, x < 4 → decode (BitVec.ofNat 14 (32 * x)) = .ok .nop) ∧
  ∀ s : State, exec .nop s = .next { s with pc := s.pc + 1#13 }

/-- R192: SLEEP clears the watchdog and its prescaler, sets nTO, clears nPD and puts the core to sleep
at `next`; with an interrupt request pending it acts as a NOP. That the request is that of this
boundary's sample and that the watchdog is then not cleared either is the model's reading (log 11);
that the prescaler is cleared whatever it is assigned to is the model's choice (log 24). -/
def Obligations.SleepStopsTheCore : Prop :=
  decode 0x0063#14 = .ok .sleep ∧
  ∀ s : State,
    (s.input.irqPending = false → exec .sleep s = .next { s with
      status := (s.status ||| 0x10#8) &&& 0xF7#8
      wdt := 0, wdtPrescaler := 0, asleep := true, pc := s.pc + 1#13 }) ∧
    (s.input.irqPending = true → exec .sleep s = .next { s with pc := s.pc + 1#13 })

/-! ### Refusals of instructions -/

/-- R68: every instruction whose operand resolves to a peripheral register is refused by name. -/
def Obligations.PeripheralOperandsRefused : Prop :=
  ∀ (i : Instr) (s : State) (f : Nat), i.wellFormed = true → fileOperandOf i = some f →
    regionOf (operandAddr s f) = .peripheral →
    exec i s = .refused (.peripheralAccess (operandAddr s f))

/-- R110: an instruction written by hand with an operand outside its range is refused by name, in
every state. -/
def Obligations.MalformedOperandsRefused : Prop :=
  ∀ (i : Instr) (s : State), i.wellFormed = false → exec i s = .refused .malformedOperand

/-! ### What no instruction changes -/

/-- R47, R33, R35: an instruction that does not have STATUS as its destination keeps every flag it
does not list, and the bank bits. -/
def Obligations.UnlistedFlagsKept : Prop :=
  ∀ (i : Instr) (s t : State), exec i s = .next t → storedRegion i s ≠ some .status →
    (listsZFlag i = false → t.flagZ = s.flagZ) ∧ (listsDCFlag i = false → t.flagDC = s.flagDC) ∧
    (listsCFlag i = false → t.flagC = s.flagC) ∧
    t.status.extractLsb' 5 3 = s.status.extractLsb' 5 3

/-- R31, R32, R35, R47: no instruction but CLRWDT and SLEEP changes nTO or nPD, not even a write to
STATUS. -/
def Obligations.PowerBitsKept : Prop :=
  ∀ (i : Instr) (s t : State), exec i s = .next t → i ≠ .clrwdt → i ≠ .sleep →
    t.nTO = s.nTO ∧ t.nPD = s.nPD

/-- The frame of the registers: W changes only by the instructions of R20, FSR and PCLATH only by a
store to them (R25, R62), INTCON only by a store or RETFIE (R204), the stack only by CALL and the
returns (R38), the watchdog counters only by CLRWDT and SLEEP and the sleep state only by SLEEP (R43,
R44, R190, R192), and the program (R79), WDTE (a fixed field by the model's choice, log 7) and the
model's own `wokeUp` and `inputs` (logs 6 and 10) by no instruction. -/
def Obligations.RegisterFrame : Prop :=
  ∀ (i : Instr) (s t : State), exec i s = .next t →
    (writesW i = false → t.w = s.w) ∧
    (storedRegion i s ≠ some .fsr → t.fsr = s.fsr) ∧
    (storedRegion i s ≠ some .pclath → t.pclath = s.pclath) ∧
    (storedRegion i s ≠ some .intcon → i ≠ .retfie → t.intcon = s.intcon) ∧
    ((∀ k, i ≠ .call k) → (∀ k, i ≠ .retlw k) → i ≠ .ret → i ≠ .retfie → t.stack = s.stack) ∧
    (i ≠ .clrwdt → i ≠ .sleep → t.wdt = s.wdt ∧ t.wdtPrescaler = s.wdtPrescaler) ∧
    (i ≠ .sleep → t.asleep = s.asleep) ∧
    t.prog = s.prog ∧ t.wdte = s.wdte ∧ t.wokeUp = s.wokeUp ∧ t.inputs = s.inputs

/-- The frame of memory: every byte of RAM but the one the instruction stores to reads as before; an
instruction that stores to no RAM leaves all of it (R63, R73). -/
def Obligations.RamFrame : Prop :=
  ∀ (i : Instr) (s t : State), s.ram.wf → exec i s = .next t →
    ∀ n : Nat, storedRegion i s ≠ some (.ram n) → t.ram.read n = s.ram.read n

/-- R23, R170: where the pc goes after each instruction: the page target, the top of the stack, `next`
or `next2` after a skip instruction, PCLATH's block after a write to PCL, and otherwise `next`. -/
def Obligations.WaysOfThePc : Prop :=
  ∀ (i : Instr) (s t : State), exec i s = .next t →
    match i with
    | .call k | .goto k => t.pc = BitVec.ofNat 13 (2048 * (s.pclath.toNat / 8) + k)
    | .retfie | .retlw _ | .ret => s.stack.head? = some t.pc
    | .decfsz _ _ | .incfsz _ _ | .btfsc _ _ | .btfss _ _ =>
      t.pc = s.pc + 1#13 ∨ t.pc = s.pc + 2#13
    | i =>
      if storedRegion i s = some .pcl then t.pc.toNat / 256 = s.pclath.toNat
      else t.pc = s.pc + 1#13

/-- R134, R135: RLF and then RRF of a RAM operand, both with `d` = 1, restore the register and C. -/
def Obligations.RotateBackRestores : Prop :=
  ∀ (s : State) (f cell : Nat), f < 128 → s.ram.wf → regionOf (operandAddr s f) = .ram cell →
    ∃ t u, exec (.rlf f 1) s = .next t ∧ exec (.rrf f 1) t = .next u ∧
      u.ram = s.ram ∧ u.status = s.status ∧ u.w = s.w

/-! ### Interrupts -/

/-- R206: with GIE = 1, a request pending and the core awake, not just woken (R205), the step is the
interrupt entry: the pc is pushed, GIE cleared, the pc goes to 0004h, and nothing else changes; on a
full stack it is the model's overflow fault. -/
def Obligations.InterruptEntry : Prop :=
  ∀ s : State, NoReset s → s.asleep = false → s.wokeUp = false → s.gie = true →
    s.input.irqPending = true →
    (s.stack.length < 8 → ∃ t, step s = .next t ∧ SameMachine t { s with
      stack := s.pc :: s.stack, intcon := s.intcon &&& 0x7F#8, pc := 0x0004#13 }) ∧
    (8 ≤ s.stack.length → step s = .fault .stackOverflow)

/-- R204: while GIE = 0 no request is taken: the instruction at the pc executes, whether or not a
request is pending. -/
def Obligations.MaskedInterruptNotTaken : Prop :=
  ∀ s : State, NoReset s → s.asleep = false → s.gie = false →
    s.boundaryEvent = .instruction ∧ step s = runInstruction s

/-- R202, R206: RETFIE is the inverse of interrupt entry: executed in the state the entry leaves, it
gives back the interrupted state (its sample used up, log 6). -/
def Obligations.RetfieUndoesEntry : Prop :=
  ∀ s t : State, s.boundaryEvent = .interruptEntry → step s = .next t →
    exec .retfie t = .next { s with inputs := s.inputs.tail }

/-! ### Watchdog, sleep and resets -/

/-- R210, R220: with WDTE = 0 there is no time-out event; with WDTE = 1 a time-out beats a pending
interrupt; and an external reset overrides everything. That a time-out beats a request while asleep
too is the model's choice (log 12). -/
def Obligations.BoundaryPriority : Prop :=
  ∀ s : State,
    (s.input.mclr = true → s.boundaryEvent = .externalReset) ∧
    (s.wdte = false → s.boundaryEvent ≠ .watchdogReset ∧ s.boundaryEvent ≠ .watchdogWake) ∧
    (s.input.mclr = false → s.wdte = true → s.input.wdtTimeout = true →
      s.boundaryEvent = if s.asleep then .watchdogWake else .watchdogReset)

/-- R221: a watchdog time-out while running is a device reset. -/
def Obligations.WatchdogResetWhileRunning : Prop :=
  ∀ s : State, s.input.mclr = false → s.wdte = true → s.input.wdtTimeout = true →
    s.asleep = false → ∃ t, step s = .next t ∧ SameMachine t (afterReset s false true)

/-- R222: a watchdog time-out while asleep is a wake-up: nTO is cleared, the core is awake at the
same pc, everything else is unchanged, and the instruction at the pc executes next. That the time-out
wins over a request at the same boundary of sleep is the model's reading (log 12), and that no request
is taken before that next instruction rests on the model's own field `wokeUp` (log 10). -/
def Obligations.WatchdogWakesSleepingCore : Prop :=
  ∀ s : State, s.input.mclr = false → s.wdte = true → s.input.wdtTimeout = true →
    s.asleep = true → ∃ t, step s = .next t ∧
      SameMachine t { s with status := s.status &&& 0xEF#8, asleep := false } ∧
      (NoReset t → t.boundaryEvent = .instruction)

/-- R227(c): an interrupt request wakes a sleeping core whatever GIE is, changing nothing else, and
the instruction after the SLEEP executes before any interrupt entry. That no request is taken at the
boundary before that instruction rests on the model's own field `wokeUp` (log 10). -/
def Obligations.InterruptWakesThenInstruction : Prop :=
  ∀ s : State, NoReset s → s.asleep = true → s.input.irqPending = true →
    ∃ t, step s = .next t ∧ SameMachine t { s with asleep := false } ∧
      (NoReset t → t.boundaryEvent = .instruction)

/-- R193, R247(a): a sleeping core that nothing wakes executes nothing: every register, the memories
and the pc keep their values, only the two watchdog counters may run (log 8). It has no step exactly
when WDTE is 0 and the list of samples is used up, the model's form of an empty IrqSources (logs 6
and 9); with WDTE = 1 it sleeps on. -/
def Obligations.SleepingCoreKeepsState : Prop :=
  ∀ s : State, NoReset s → s.asleep = true → s.input.irqPending = false →
    (s.wdte = false → s.inputs = [] → step s = .fault .asleepNoWake) ∧
    (s.wdte = true ∨ s.inputs ≠ [] → ∃ t, step s = .next t ∧
      SameMachine t { s with wdt := t.wdt, wdtPrescaler := t.wdtPrescaler } ∧
      t.boundaryEvent ≠ .instruction)

/-- R46, R241: an external reset keeps nTO and nPD while running and leaves nTO = 1, nPD = 0 during
sleep. That an external reset can come at any boundary is the model's reading (log 18). -/
def Obligations.ExternalResetValues : Prop :=
  ∀ s : State, s.input.mclr = true →
    (s.asleep = false → ∃ t, step s = .next t ∧ SameMachine t (afterReset s s.nTO s.nPD)) ∧
    (s.asleep = true → ∃ t, step s = .next t ∧ SameMachine t (afterReset s true false))

/-- The model's own fields (logs 6 and 10): every step uses up one sample, and `wokeUp` is set by the
two wake-up steps, cleared by an instruction and by a reset. -/
def Obligations.EveryStepUsesOneSample : Prop :=
  ∀ s t : State, step s = .next t →
    t.inputs = s.inputs.tail ∧
    (s.boundaryEvent = .watchdogWake ∨ s.boundaryEvent = .interruptWake → t.wokeUp = true) ∧
    (s.boundaryEvent = .instruction ∨ s.boundaryEvent = .watchdogReset ∨
      s.boundaryEvent = .externalReset → t.wokeUp = false)

/-- R242: the power-on state has every value the spec gives a launch state. The bits the spec calls
unknown are not spoken of, and the program is loaded from outside (log 16). -/
def Obligations.PowerOnIsALaunchState : Prop := State.reset.IsLaunch

/-- R240: execution starts at 0000h after every reset, with interrupts masked and the core awake. -/
def Obligations.EveryResetStartsAtZero : Prop :=
  (State.reset.pc = 0x0000#13 ∧ State.reset.gie = false ∧ State.reset.asleep = false) ∧
  ∀ s t : State, s.boundaryEvent = .externalReset ∨ s.boundaryEvent = .watchdogReset →
    step s = .next t → t.pc = 0x0000#13 ∧ t.gie = false ∧ t.asleep = false

/-! ### Invariants -/

/-- The power-on state satisfies the invariant. -/
def Obligations.PowerOnSatisfiesInv : Prop := State.reset.Inv

/-- Every step keeps the invariant: the memories stay canonical, RAM stays at its 368 cells, the stack
holds at most eight entries, and the sleep bits of STATUS stay as R227 says. -/
def Obligations.StepKeepsInv : Prop :=
  ∀ s t : State, s.Inv → step s = .next t → t.Inv

/-- Over any number of steps the invariant is kept and neither the program nor WDTE changes (R79,
R220). -/
def Obligations.RunKeepsInvAndProgram : Prop :=
  ∀ (n : Nat) (s t : State), s.Inv → core.run n s = .next t →
    State.Inv t ∧ State.prog t = s.prog ∧ State.wdte t = s.wdte

/-! ### Assembler -/

/-- R110: every instruction the assembler forms has its operands in range. -/
def Obligations.AssembledInstructionsAreWellFormed : Prop :=
  ∀ (files : List (Asm.Text × Asm.Text)) (user : List (Asm.Text × Nat)) (origin : Nat)
    (source : Asm.Text) (is : List Instr), Asm.assemble files user origin source = .ok is →
    ∀ i ∈ is, i.wellFormed = true

/-! ### The loader -/

/-- R101, R41: an image whose words have 14 bits and stand at different addresses of the 8192 is
loaded whole, with nothing elsewhere and nothing else of the machine changed; an image with a word
above 14 bits or an address outside is refused. That an image with two words at one address is
refused too is the model's choice (log 16). -/
def Obligations.ImageIsLoadedWholeOrRefused : Prop :=
  ∀ (s : State) (image : Image),
    ((∀ c ∈ image, c.1 < 8192 ∧ c.2 < 16384) → (image.map (·.1)).Nodup →
      ∃ p : ProgramMemory, s.loadProgram image = .ok { s with prog := p } ∧ p.wf ∧
        (∀ c ∈ image, p.lookup c.1 = some (BitVec.ofNat 14 c.2)) ∧
        ∀ a : Nat, a ∉ image.map (·.1) → p.lookup a = none) ∧
    ((∃ c ∈ image, 16384 ≤ c.2 ∨ 8192 ≤ c.1) ∨ ¬(image.map (·.1)).Nodup →
      ∃ e, s.loadProgram image = .error e)
end

