-- ==== Sys2Proof/Laws/Flags.lean ====
section
/-! SUPPORT. The bits of STATUS after each flag operation, so that later proofs never unfold a mask. -/

namespace Sys2Proof.Machine

/-- Bit `j` of a byte with bit `i` made `b`. -/
theorem setBitTo_getLsbD (v : Byte) (i j : Nat) (b : Bool) :
    (setBitTo v i b).getLsbD j = if j = i ∧ j < 8 then b else v.getLsbD j := by
  unfold setBitTo
  rcases Nat.lt_or_ge j 8 with hj | hj
  · have h1 : (1#8 <<< i).getLsbD j = decide (j = i) := by
      simp only [BitVec.getLsbD_shiftLeft, BitVec.getLsbD_one, hj]
      rcases Nat.lt_trichotomy j i with h | h | h
      · simp [h, Nat.ne_of_lt h]
      · simp [h]
      · simp [Nat.not_lt_of_gt h, show j - i ≠ 0 by omega, Nat.ne_of_gt h]
    cases b
    · rw [if_neg Bool.false_ne_true, BitVec.getLsbD_and, BitVec.getLsbD_not, h1]
      by_cases hji : j = i <;> simp [hji, hj]
      omega
    · rw [if_pos rfl, BitVec.getLsbD_or, h1]
      by_cases hji : j = i <;> simp [hji, hj]
      omega
  · simp [BitVec.getLsbD_of_ge _ _ hj, Nat.not_lt_of_le hj]

/-- Bit `j` after one listed or unlisted flag. -/
theorem setListed_getLsbD (v : Byte) (i j : Nat) (o : Option Bool) :
    (setListed v i o).getLsbD j = if j = i ∧ j < 8 then o.getD (v.getLsbD j) else v.getLsbD j := by
  cases o with
  | none => simp [setListed]
  | some b => simp [setListed, setBitTo_getLsbD]

/-- Z after the listed flags are written. -/
@[simp] theorem applyFlags_z (st : Byte) (fl : FlagUpdate) :
    (applyFlags st fl).getLsbD Config.bitZ = fl.z.getD (st.getLsbD Config.bitZ) := by
  rw [applyFlags, setListed_getLsbD,
    if_neg (by decide), setListed_getLsbD,
    if_neg (by decide), setListed_getLsbD,
    if_pos (by decide)]

/-- DC after the listed flags are written. -/
@[simp] theorem applyFlags_dc (st : Byte) (fl : FlagUpdate) :
    (applyFlags st fl).getLsbD Config.bitDC = fl.dc.getD (st.getLsbD Config.bitDC) := by
  rw [applyFlags, setListed_getLsbD,
    if_neg (by decide), setListed_getLsbD,
    if_pos (by decide), setListed_getLsbD,
    if_neg (by decide)]

/-- C after the listed flags are written. -/
@[simp] theorem applyFlags_c (st : Byte) (fl : FlagUpdate) :
    (applyFlags st fl).getLsbD Config.bitC = fl.c.getD (st.getLsbD Config.bitC) := by
  rw [applyFlags, setListed_getLsbD,
    if_pos (by decide), setListed_getLsbD,
    if_neg (by decide), setListed_getLsbD,
    if_neg (by decide)]

/-- The listed flags leave bits 7:3 alone. -/
theorem applyFlags_high (st : Byte) (fl : FlagUpdate) (j : Nat) (h : 3 ≤ j) :
    (applyFlags st fl).getLsbD j = st.getLsbD j := by
  have h2 : j ≠ 2 := by omega
  have h1 : j ≠ 1 := by omega
  have h0 : j ≠ 0 := by omega
  simp only [applyFlags, setListed_getLsbD, Config.bitZ, Config.bitDC, Config.bitC, h2, h1, h0,
    false_and, if_false]

/-- The listed flags leave bits 7:3 alone, as one field. -/
theorem applyFlags_extract_high (st : Byte) (fl : FlagUpdate) :
    (applyFlags st fl).extractLsb' 3 5 = st.extractLsb' 3 5 := by
  ext j hj
  simp only [BitVec.getElem_extractLsb']
  exact applyFlags_high st fl (3 + j) (by omega)

@[simp] theorem applyFlags_noFlags (st : Byte) : applyFlags st noFlags = st := rfl

/-- The bits of STATUS written as a file register (R35). -/
theorem writeStatus_getLsbD (st v : Byte) (fl : FlagUpdate) (j : Nat) :
    (writeStatus st v fl).getLsbD j =
      if 5 ≤ j then v.getLsbD j
      else if 3 ≤ j then st.getLsbD j
      else if j = 2 then fl.z.getD (if fl.isEmpty then v.getLsbD j else st.getLsbD j)
      else if j = 1 then fl.dc.getD (if fl.isEmpty then v.getLsbD j else st.getLsbD j)
      else fl.c.getD (if fl.isEmpty then v.getLsbD j else st.getLsbD j) := by
  have mask : ∀ m : Byte, ((v &&& 0xE0#8) ||| (st &&& 0x18#8) ||| (m &&& 0x07#8)).getLsbD j =
      if 5 ≤ j then v.getLsbD j else if 3 ≤ j then st.getLsbD j else m.getLsbD j := by
    intro m
    by_cases hj : j < 8
    · interval_cases j <;> simp
    · have := Nat.le_of_not_lt hj
      simp [BitVec.getLsbD_of_ge _ _ this]
  unfold writeStatus
  by_cases hj : j < 8
  · simp only [applyFlags, setListed_getLsbD, mask, Config.bitZ, Config.bitDC, Config.bitC]
    cases fl.isEmpty <;> interval_cases j <;> simp
  · have := Nat.le_of_not_lt hj
    simp only [BitVec.getLsbD_of_ge _ _ this, ite_self]
    simp [show 5 ≤ j by omega]

end Sys2Proof.Machine
end

