-- ==== Sys2Proof/Laws/Memory.lean ====
section
/-! SUPPORT. The laws of the two memories: read after write, every other cell left alone, the
canonical form kept, and canonical memories equal when they read equal. -/

namespace Sys2Proof.Machine

@[simp] theorem read_nil (a : Nat) : Memory.read [] a = Config.ramUnlisted := rfl

theorem read_cons (k : Nat) (v : Byte) (m : Memory) (a : Nat) :
    Memory.read ((k, v) :: m) a = if k = a then v else Memory.read m a := rfl

/-- A cell below every listed cell is unlisted. -/
theorem read_below (m : Memory) (a : Nat) (h : ∀ c ∈ m, a < c.1) :
    m.read a = Config.ramUnlisted := by
  induction m with
  | nil => rfl
  | cons c m ih =>
    obtain ⟨k, v⟩ := c
    have hk : a < k := h (k, v) (by simp)
    rw [read_cons, if_neg (by omega)]
    exact ih (fun c hc => h c (by simp [hc]))

theorem wf_cons (k : Nat) (v : Byte) (m : Memory) :
    Memory.wf ((k, v) :: m) ↔ (∀ c ∈ m, k < c.1) ∧ v ≠ Config.ramUnlisted ∧ m.wf := by
  simp only [Memory.wf, List.pairwise_cons, List.forall_mem_cons]
  tauto

/-- Every listed cell of a written memory was listed before or is the one written. -/
theorem mem_write (m : Memory) (a : Nat) (v : Byte) (c : Host.Cell) (h : c ∈ m.write a v) :
    c ∈ m ∨ c = (a, v) := by
  induction m with
  | nil =>
    simp only [Memory.write] at h
    split at h <;> simp_all
  | cons d m ih =>
    obtain ⟨k, x⟩ := d
    simp only [Memory.write] at h
    split at h
    · split at h
      · exact .inl h
      · rcases List.mem_cons.1 h with h | h
        · exact .inr h
        · exact .inl h
    · split at h
      · split at h
        · exact .inl (List.mem_cons_of_mem _ h)
        · rcases List.mem_cons.1 h with h | h
          · exact .inr h
          · exact .inl (List.mem_cons_of_mem _ h)
      · rcases List.mem_cons.1 h with h | h
        · exact .inl (h ▸ List.mem_cons_self)
        · exact (ih h).imp (List.mem_cons_of_mem _) id

/-- A write keeps the canonical form. -/
theorem write_wf (m : Memory) (a : Nat) (v : Byte) (h : m.wf) : (m.write a v).wf := by
  induction m with
  | nil =>
    simp only [Memory.write]
    split
    · exact h
    · simp_all [Memory.wf]
  | cons d m ih =>
    obtain ⟨k, x⟩ := d
    obtain ⟨hk, hx, hm⟩ := (wf_cons k x m).1 h
    simp only [Memory.write]
    split
    · split
      · exact h
      · next hak hv =>
        refine (wf_cons a v _).2 ⟨?_, hv, h⟩
        intro c hc
        rcases List.mem_cons.1 hc with rfl | hc
        · exact hak
        · exact lt_trans hak (hk c hc)
    · split
      · next hak =>
        split
        · exact hm
        · next hv => exact (wf_cons a v _).2 ⟨hak ▸ hk, hv, hm⟩
      · refine (wf_cons k x _).2 ⟨?_, hx, ih hm⟩
        intro c hc
        rcases mem_write m a v c hc with hc | rfl
        · exact hk c hc
        · show k < a
          omega

/-- A cell reads what was written to it. -/
theorem read_write_same (m : Memory) (a : Nat) (v : Byte) (h : m.wf) :
    (m.write a v).read a = v := by
  induction m with
  | nil =>
    simp only [Memory.write]
    split
    · next hv => rw [read_nil, hv]
    · rw [read_cons, if_pos rfl]
  | cons d m ih =>
    obtain ⟨k, x⟩ := d
    obtain ⟨hk, hx, hm⟩ := (wf_cons k x m).1 h
    simp only [Memory.write]
    split
    · next hak =>
      split
      · next hv =>
        rw [hv]
        refine read_below _ _ (fun c hc => ?_)
        rcases List.mem_cons.1 hc with rfl | hc
        · exact hak
        · exact lt_trans hak (hk c hc)
      · rw [read_cons, if_pos rfl]
    · split
      · next hak =>
        split
        · next hv => rw [hv, read_below m a (hak ▸ hk)]
        · rw [read_cons, if_pos rfl]
      · next h1 h2 => rw [read_cons, if_neg (fun e => h2 e.symm), ih hm]

/-- A write leaves every other cell alone. -/
theorem read_write_other (m : Memory) (a b : Nat) (v : Byte) (h : m.wf) (hab : b ≠ a) :
    (m.write a v).read b = m.read b := by
  induction m with
  | nil =>
    simp only [Memory.write]
    split
    · rfl
    · rw [read_cons, if_neg (fun e => hab e.symm)]
  | cons d m ih =>
    obtain ⟨k, x⟩ := d
    obtain ⟨hk, hx, hm⟩ := (wf_cons k x m).1 h
    simp only [Memory.write]
    split
    · split
      · rfl
      · rw [read_cons, if_neg (fun e => hab e.symm)]
    · split
      · next hak =>
        have hkb : ¬ k = b := fun e => hab (e ▸ hak.symm)
        split
        · rw [read_cons, if_neg hkb]
        · rw [read_cons, if_neg (fun e => hab e.symm), read_cons, if_neg hkb]
      · rw [read_cons, read_cons, ih hm]

/-- Canonical memories that read equal everywhere are equal. -/
theorem eq_of_read_eq (m n : Memory) (hm : m.wf) (hn : n.wf) (h : ∀ a, m.read a = n.read a) :
    m = n := by
  induction m generalizing n with
  | nil =>
    cases n with
    | nil => rfl
    | cons d n =>
      obtain ⟨k, x⟩ := d
      have := h k
      rw [read_nil, read_cons, if_pos rfl] at this
      exact absurd this.symm ((wf_cons k x n).1 hn).2.1
  | cons c m ih =>
    obtain ⟨j, y⟩ := c
    obtain ⟨hj, hy, hm'⟩ := (wf_cons j y m).1 hm
    cases n with
    | nil =>
      have := h j
      rw [read_nil, read_cons, if_pos rfl] at this
      exact absurd this hy
    | cons d n =>
      obtain ⟨k, x⟩ := d
      obtain ⟨hk, hx, hn'⟩ := (wf_cons k x n).1 hn
      have below_j : ∀ a, a < j → Memory.read ((j, y) :: m) a = Config.ramUnlisted := fun a ha =>
        read_below _ _ (fun c hc => by
          rcases List.mem_cons.1 hc with rfl | hc
          · exact ha
          · exact lt_trans ha (hj c hc))
      have below_k : ∀ a, a < k → Memory.read ((k, x) :: n) a = Config.ramUnlisted := fun a ha =>
        read_below _ _ (fun c hc => by
          rcases List.mem_cons.1 hc with rfl | hc
          · exact ha
          · exact lt_trans ha (hk c hc))
      have hjk : j = k := by
        rcases lt_trichotomy j k with hlt | heq | hgt
        · have := h j
          rw [below_k j hlt, read_cons, if_pos rfl] at this
          exact absurd this hy
        · exact heq
        · have := h k
          rw [below_j k hgt, read_cons, if_pos rfl] at this
          exact absurd this.symm hx
      subst hjk
      have hxy : y = x := by
        have := h j
        rwa [read_cons, if_pos rfl, read_cons, if_pos rfl] at this
      subst hxy
      congr 1
      refine ih n hm' hn' (fun a => ?_)
      by_cases ha : j = a
      · subst ha
        rw [read_below m j hj, read_below n j hk]
      · have := h a
        rwa [read_cons, if_neg ha, read_cons, if_neg ha] at this

/-! ### Program memory -/

theorem lookup_cons (k : Nat) (v : CodeWord) (p : ProgramMemory) (a : Nat) :
    ProgramMemory.lookup ((k, v) :: p) a = if k = a then some v else ProgramMemory.lookup p a := rfl

/-- The fetch address holds the word placed there, whatever the memory was. -/
theorem lookup_place_same (p : ProgramMemory) (a : Nat) (v : CodeWord) :
    (p.place a v).lookup a = some v := by
  induction p with
  | nil => simp [ProgramMemory.place, lookup_cons]
  | cons d p ih =>
    obtain ⟨k, x⟩ := d
    simp only [ProgramMemory.place]
    split
    · rw [lookup_cons, if_pos rfl]
    · split
      · rw [lookup_cons, if_pos rfl]
      · next h1 h2 => rw [lookup_cons, if_neg (fun e => h2 e.symm), ih]

/-- Placing a word leaves every other address alone. -/
theorem lookup_place_other (p : ProgramMemory) (a b : Nat) (v : CodeWord) (hab : b ≠ a) :
    (p.place a v).lookup b = p.lookup b := by
  induction p with
  | nil => simp [ProgramMemory.place, lookup_cons, hab.symm]
  | cons d p ih =>
    obtain ⟨k, x⟩ := d
    simp only [ProgramMemory.place]
    split
    · rw [lookup_cons, if_neg (fun e => hab e.symm)]
    · split
      · next hak =>
        rw [lookup_cons, if_neg (fun e => hab e.symm), lookup_cons,
          if_neg (by omega)]
      · rw [lookup_cons, lookup_cons, ih]

theorem mem_place (p : ProgramMemory) (a : Nat) (v : CodeWord) (c : Nat × CodeWord)
    (h : c ∈ p.place a v) : c ∈ p ∨ c = (a, v) := by
  induction p with
  | nil => exact .inr (List.mem_singleton.1 h)
  | cons d p ih =>
    obtain ⟨k, x⟩ := d
    simp only [ProgramMemory.place] at h
    split at h
    · exact (List.mem_cons.1 h).elim .inr .inl
    · split at h
      · exact (List.mem_cons.1 h).elim .inr (fun h => .inl (List.mem_cons_of_mem _ h))
      · rcases List.mem_cons.1 h with h | h
        · exact .inl (h ▸ List.mem_cons_self)
        · exact (ih h).imp (List.mem_cons_of_mem _) id

/-- Placing a word inside the 8192 keeps the canonical form. -/
theorem place_wf (p : ProgramMemory) (a : Nat) (v : CodeWord) (h : p.wf)
    (ha : a < Config.progWords) : (p.place a v).wf := by
  obtain ⟨hp, hb⟩ := h
  refine ⟨?_, fun c hc => (mem_place p a v c hc).elim (hb c) (fun e => by rw [e]; exact ha)⟩
  clear hb
  induction p with
  | nil => simp [ProgramMemory.place]
  | cons d p ih =>
    obtain ⟨k, x⟩ := d
    obtain ⟨hk, hp'⟩ := List.pairwise_cons.1 hp
    simp only [ProgramMemory.place]
    split
    · next hak =>
      refine List.pairwise_cons.2 ⟨fun c hc => ?_, hp⟩
      rcases List.mem_cons.1 hc with rfl | hc
      · exact hak
      · exact lt_trans hak (hk c hc)
    · split
      · next hak => exact List.pairwise_cons.2 ⟨hak ▸ hk, hp'⟩
      · refine List.pairwise_cons.2 ⟨fun c hc => ?_, ih hp'⟩
        rcases mem_place p a v c hc with hc | rfl
        · exact hk c hc
        · show k < a
          omega

theorem mem_clear (p : ProgramMemory) (a : Nat) (c : Nat × CodeWord) (h : c ∈ p.clear a) :
    c ∈ p := by
  induction p with
  | nil => exact h
  | cons d p ih =>
    obtain ⟨k, x⟩ := d
    simp only [ProgramMemory.clear] at h
    split at h
    · exact List.mem_cons_of_mem _ (ih h)
    · rcases List.mem_cons.1 h with h | h
      · exact h ▸ List.mem_cons_self
      · exact List.mem_cons_of_mem _ (ih h)

/-- Clearing an address keeps the canonical form. -/
theorem clear_wf (p : ProgramMemory) (a : Nat) (h : p.wf) : (p.clear a).wf := by
  obtain ⟨hp, hb⟩ := h
  refine ⟨?_, fun c hc => hb c (mem_clear p a c hc)⟩
  clear hb
  induction p with
  | nil => exact hp
  | cons d p ih =>
    obtain ⟨k, x⟩ := d
    obtain ⟨hk, hp'⟩ := List.pairwise_cons.1 hp
    simp only [ProgramMemory.clear]
    split
    · exact ih hp'
    · exact List.pairwise_cons.2 ⟨fun c hc => hk c (mem_clear p a c hc), ih hp'⟩

/-- A cleared address holds nothing. -/
theorem lookup_clear_same (p : ProgramMemory) (a : Nat) : (p.clear a).lookup a = none := by
  induction p with
  | nil => rfl
  | cons d p ih =>
    obtain ⟨k, x⟩ := d
    simp only [ProgramMemory.clear]
    split
    · exact ih
    · next h => rw [lookup_cons, if_neg h, ih]

end Sys2Proof.Machine
end

