-- ==== Sys2Proof/Laws/State.lean ====
section
/-! SUPPORT. One lemma per field per update of State, true by rfl, so that no later proof unfolds a
record update. -/

namespace Sys2Proof.Machine

/-! ### `advance` -/

@[simp] theorem advance_pc (s : State) : s.advance.pc = s.next := rfl
@[simp] theorem advance_w (s : State) : s.advance.w = s.w := rfl
@[simp] theorem advance_status (s : State) : s.advance.status = s.status := rfl
@[simp] theorem advance_fsr (s : State) : s.advance.fsr = s.fsr := rfl
@[simp] theorem advance_pclath (s : State) : s.advance.pclath = s.pclath := rfl
@[simp] theorem advance_intcon (s : State) : s.advance.intcon = s.intcon := rfl
@[simp] theorem advance_stack (s : State) : s.advance.stack = s.stack := rfl
@[simp] theorem advance_ram (s : State) : s.advance.ram = s.ram := rfl
@[simp] theorem advance_prog (s : State) : s.advance.prog = s.prog := rfl
@[simp] theorem advance_wdt (s : State) : s.advance.wdt = s.wdt := rfl
@[simp] theorem advance_wdtPrescaler (s : State) : s.advance.wdtPrescaler = s.wdtPrescaler := rfl
@[simp] theorem advance_asleep (s : State) : s.advance.asleep = s.asleep := rfl
@[simp] theorem advance_wdte (s : State) : s.advance.wdte = s.wdte := rfl
@[simp] theorem advance_wokeUp (s : State) : s.advance.wokeUp = s.wokeUp := rfl
@[simp] theorem advance_inputs (s : State) : s.advance.inputs = s.inputs := rfl

/-! ### `setFlags` -/

@[simp] theorem setFlags_pc (s : State) (fl : FlagUpdate) : (s.setFlags fl).pc = s.pc := rfl
@[simp] theorem setFlags_w (s : State) (fl : FlagUpdate) : (s.setFlags fl).w = s.w := rfl
@[simp] theorem setFlags_status (s : State) (fl : FlagUpdate) : (s.setFlags fl).status = applyFlags s.status fl := rfl
@[simp] theorem setFlags_fsr (s : State) (fl : FlagUpdate) : (s.setFlags fl).fsr = s.fsr := rfl
@[simp] theorem setFlags_pclath (s : State) (fl : FlagUpdate) : (s.setFlags fl).pclath = s.pclath := rfl
@[simp] theorem setFlags_intcon (s : State) (fl : FlagUpdate) : (s.setFlags fl).intcon = s.intcon := rfl
@[simp] theorem setFlags_stack (s : State) (fl : FlagUpdate) : (s.setFlags fl).stack = s.stack := rfl
@[simp] theorem setFlags_ram (s : State) (fl : FlagUpdate) : (s.setFlags fl).ram = s.ram := rfl
@[simp] theorem setFlags_prog (s : State) (fl : FlagUpdate) : (s.setFlags fl).prog = s.prog := rfl
@[simp] theorem setFlags_wdt (s : State) (fl : FlagUpdate) : (s.setFlags fl).wdt = s.wdt := rfl
@[simp] theorem setFlags_wdtPrescaler (s : State) (fl : FlagUpdate) : (s.setFlags fl).wdtPrescaler = s.wdtPrescaler := rfl
@[simp] theorem setFlags_asleep (s : State) (fl : FlagUpdate) : (s.setFlags fl).asleep = s.asleep := rfl
@[simp] theorem setFlags_wdte (s : State) (fl : FlagUpdate) : (s.setFlags fl).wdte = s.wdte := rfl
@[simp] theorem setFlags_wokeUp (s : State) (fl : FlagUpdate) : (s.setFlags fl).wokeUp = s.wokeUp := rfl
@[simp] theorem setFlags_inputs (s : State) (fl : FlagUpdate) : (s.setFlags fl).inputs = s.inputs := rfl

/-! ### `setPowerBits` -/

@[simp] theorem setPowerBits_pc (s : State) (a b : Bool) : (s.setPowerBits a b).pc = s.pc := rfl
@[simp] theorem setPowerBits_w (s : State) (a b : Bool) : (s.setPowerBits a b).w = s.w := rfl
@[simp] theorem setPowerBits_status (s : State) (a b : Bool) : (s.setPowerBits a b).status = setBitTo (setBitTo s.status Config.bitNTO a) Config.bitNPD b := rfl
@[simp] theorem setPowerBits_fsr (s : State) (a b : Bool) : (s.setPowerBits a b).fsr = s.fsr := rfl
@[simp] theorem setPowerBits_pclath (s : State) (a b : Bool) : (s.setPowerBits a b).pclath = s.pclath := rfl
@[simp] theorem setPowerBits_intcon (s : State) (a b : Bool) : (s.setPowerBits a b).intcon = s.intcon := rfl
@[simp] theorem setPowerBits_stack (s : State) (a b : Bool) : (s.setPowerBits a b).stack = s.stack := rfl
@[simp] theorem setPowerBits_ram (s : State) (a b : Bool) : (s.setPowerBits a b).ram = s.ram := rfl
@[simp] theorem setPowerBits_prog (s : State) (a b : Bool) : (s.setPowerBits a b).prog = s.prog := rfl
@[simp] theorem setPowerBits_wdt (s : State) (a b : Bool) : (s.setPowerBits a b).wdt = s.wdt := rfl
@[simp] theorem setPowerBits_wdtPrescaler (s : State) (a b : Bool) : (s.setPowerBits a b).wdtPrescaler = s.wdtPrescaler := rfl
@[simp] theorem setPowerBits_asleep (s : State) (a b : Bool) : (s.setPowerBits a b).asleep = s.asleep := rfl
@[simp] theorem setPowerBits_wdte (s : State) (a b : Bool) : (s.setPowerBits a b).wdte = s.wdte := rfl
@[simp] theorem setPowerBits_wokeUp (s : State) (a b : Bool) : (s.setPowerBits a b).wokeUp = s.wokeUp := rfl
@[simp] theorem setPowerBits_inputs (s : State) (a b : Bool) : (s.setPowerBits a b).inputs = s.inputs := rfl

/-! ### `passBoundary` -/

@[simp] theorem passBoundary_pc (s : State) : s.passBoundary.pc = s.pc := rfl
@[simp] theorem passBoundary_w (s : State) : s.passBoundary.w = s.w := rfl
@[simp] theorem passBoundary_status (s : State) : s.passBoundary.status = s.status := rfl
@[simp] theorem passBoundary_fsr (s : State) : s.passBoundary.fsr = s.fsr := rfl
@[simp] theorem passBoundary_pclath (s : State) : s.passBoundary.pclath = s.pclath := rfl
@[simp] theorem passBoundary_intcon (s : State) : s.passBoundary.intcon = s.intcon := rfl
@[simp] theorem passBoundary_stack (s : State) : s.passBoundary.stack = s.stack := rfl
@[simp] theorem passBoundary_ram (s : State) : s.passBoundary.ram = s.ram := rfl
@[simp] theorem passBoundary_prog (s : State) : s.passBoundary.prog = s.prog := rfl
@[simp] theorem passBoundary_wdt (s : State) : s.passBoundary.wdt = s.wdt := rfl
@[simp] theorem passBoundary_wdtPrescaler (s : State) : s.passBoundary.wdtPrescaler = s.wdtPrescaler := rfl
@[simp] theorem passBoundary_asleep (s : State) : s.passBoundary.asleep = s.asleep := rfl
@[simp] theorem passBoundary_wdte (s : State) : s.passBoundary.wdte = s.wdte := rfl
@[simp] theorem passBoundary_wokeUp (s : State) : s.passBoundary.wokeUp = s.wokeUp := rfl
@[simp] theorem passBoundary_inputs (s : State) : s.passBoundary.inputs = s.inputs.tail := rfl

/-! ### `watchdogWake` -/

@[simp] theorem watchdogWake_pc (s : State) : s.watchdogWake.pc = s.pc := rfl
@[simp] theorem watchdogWake_w (s : State) : s.watchdogWake.w = s.w := rfl
@[simp] theorem watchdogWake_status (s : State) : s.watchdogWake.status = setBitTo s.status Config.bitNTO false := rfl
@[simp] theorem watchdogWake_fsr (s : State) : s.watchdogWake.fsr = s.fsr := rfl
@[simp] theorem watchdogWake_pclath (s : State) : s.watchdogWake.pclath = s.pclath := rfl
@[simp] theorem watchdogWake_intcon (s : State) : s.watchdogWake.intcon = s.intcon := rfl
@[simp] theorem watchdogWake_stack (s : State) : s.watchdogWake.stack = s.stack := rfl
@[simp] theorem watchdogWake_ram (s : State) : s.watchdogWake.ram = s.ram := rfl
@[simp] theorem watchdogWake_prog (s : State) : s.watchdogWake.prog = s.prog := rfl
@[simp] theorem watchdogWake_wdt (s : State) : s.watchdogWake.wdt = s.wdt := rfl
@[simp] theorem watchdogWake_wdtPrescaler (s : State) : s.watchdogWake.wdtPrescaler = s.wdtPrescaler := rfl
@[simp] theorem watchdogWake_asleep (s : State) : s.watchdogWake.asleep = false := rfl
@[simp] theorem watchdogWake_wdte (s : State) : s.watchdogWake.wdte = s.wdte := rfl
@[simp] theorem watchdogWake_wokeUp (s : State) : s.watchdogWake.wokeUp = true := rfl
@[simp] theorem watchdogWake_inputs (s : State) : s.watchdogWake.inputs = s.inputs := rfl

/-! ### `interruptWake` -/

@[simp] theorem interruptWake_pc (s : State) : s.interruptWake.pc = s.pc := rfl
@[simp] theorem interruptWake_w (s : State) : s.interruptWake.w = s.w := rfl
@[simp] theorem interruptWake_status (s : State) : s.interruptWake.status = s.status := rfl
@[simp] theorem interruptWake_fsr (s : State) : s.interruptWake.fsr = s.fsr := rfl
@[simp] theorem interruptWake_pclath (s : State) : s.interruptWake.pclath = s.pclath := rfl
@[simp] theorem interruptWake_intcon (s : State) : s.interruptWake.intcon = s.intcon := rfl
@[simp] theorem interruptWake_stack (s : State) : s.interruptWake.stack = s.stack := rfl
@[simp] theorem interruptWake_ram (s : State) : s.interruptWake.ram = s.ram := rfl
@[simp] theorem interruptWake_prog (s : State) : s.interruptWake.prog = s.prog := rfl
@[simp] theorem interruptWake_wdt (s : State) : s.interruptWake.wdt = s.wdt := rfl
@[simp] theorem interruptWake_wdtPrescaler (s : State) : s.interruptWake.wdtPrescaler = s.wdtPrescaler := rfl
@[simp] theorem interruptWake_asleep (s : State) : s.interruptWake.asleep = false := rfl
@[simp] theorem interruptWake_wdte (s : State) : s.interruptWake.wdte = s.wdte := rfl
@[simp] theorem interruptWake_wokeUp (s : State) : s.interruptWake.wokeUp = true := rfl
@[simp] theorem interruptWake_inputs (s : State) : s.interruptWake.inputs = s.inputs := rfl

/-! ### `otherReset` -/

@[simp] theorem otherReset_pc (s : State) (a b : Bool) : (s.otherReset a b).pc = Config.resetVector := rfl
@[simp] theorem otherReset_w (s : State) (a b : Bool) : (s.otherReset a b).w = s.w := rfl
@[simp] theorem otherReset_status (s : State) (a b : Bool) : (s.otherReset a b).status = setBitTo (setBitTo (s.status &&& 0x07#8) Config.bitNTO a) Config.bitNPD b := rfl
@[simp] theorem otherReset_fsr (s : State) (a b : Bool) : (s.otherReset a b).fsr = s.fsr := rfl
@[simp] theorem otherReset_pclath (s : State) (a b : Bool) : (s.otherReset a b).pclath = 0#5 := rfl
@[simp] theorem otherReset_intcon (s : State) (a b : Bool) : (s.otherReset a b).intcon = s.intcon &&& 0x01#8 := rfl
@[simp] theorem otherReset_stack (s : State) (a b : Bool) : (s.otherReset a b).stack = [] := rfl
@[simp] theorem otherReset_ram (s : State) (a b : Bool) : (s.otherReset a b).ram = s.ram := rfl
@[simp] theorem otherReset_prog (s : State) (a b : Bool) : (s.otherReset a b).prog = s.prog := rfl
@[simp] theorem otherReset_wdt (s : State) (a b : Bool) : (s.otherReset a b).wdt = 0 := rfl
@[simp] theorem otherReset_wdtPrescaler (s : State) (a b : Bool) : (s.otherReset a b).wdtPrescaler = 0 := rfl
@[simp] theorem otherReset_asleep (s : State) (a b : Bool) : (s.otherReset a b).asleep = false := rfl
@[simp] theorem otherReset_wdte (s : State) (a b : Bool) : (s.otherReset a b).wdte = s.wdte := rfl
@[simp] theorem otherReset_wokeUp (s : State) (a b : Bool) : (s.otherReset a b).wokeUp = false := rfl
@[simp] theorem otherReset_inputs (s : State) (a b : Bool) : (s.otherReset a b).inputs = s.inputs := rfl

/-! ### `elapse`: only the two watchdog counters -/

@[simp] theorem elapse_pc (s : State) : s.elapse.pc = s.pc := by
  unfold State.elapse; split <;> rfl
@[simp] theorem elapse_w (s : State) : s.elapse.w = s.w := by
  unfold State.elapse; split <;> rfl
@[simp] theorem elapse_status (s : State) : s.elapse.status = s.status := by
  unfold State.elapse; split <;> rfl
@[simp] theorem elapse_fsr (s : State) : s.elapse.fsr = s.fsr := by
  unfold State.elapse; split <;> rfl
@[simp] theorem elapse_pclath (s : State) : s.elapse.pclath = s.pclath := by
  unfold State.elapse; split <;> rfl
@[simp] theorem elapse_intcon (s : State) : s.elapse.intcon = s.intcon := by
  unfold State.elapse; split <;> rfl
@[simp] theorem elapse_stack (s : State) : s.elapse.stack = s.stack := by
  unfold State.elapse; split <;> rfl
@[simp] theorem elapse_ram (s : State) : s.elapse.ram = s.ram := by
  unfold State.elapse; split <;> rfl
@[simp] theorem elapse_prog (s : State) : s.elapse.prog = s.prog := by
  unfold State.elapse; split <;> rfl
@[simp] theorem elapse_asleep (s : State) : s.elapse.asleep = s.asleep := by
  unfold State.elapse; split <;> rfl
@[simp] theorem elapse_wdte (s : State) : s.elapse.wdte = s.wdte := by
  unfold State.elapse; split <;> rfl
@[simp] theorem elapse_wokeUp (s : State) : s.elapse.wokeUp = s.wokeUp := by
  unfold State.elapse; split <;> rfl
@[simp] theorem elapse_inputs (s : State) : s.elapse.inputs = s.inputs := by
  unfold State.elapse; split <;> rfl

theorem elapse_wdt (s : State) :
    s.elapse.wdt = if s.wdte then s.wdt + s.input.wdtCounts else s.wdt := by
  unfold State.elapse; split <;> rfl

theorem elapse_wdtPrescaler (s : State) :
    s.elapse.wdtPrescaler =
      if s.wdte then s.wdtPrescaler + s.input.prescalerCounts else s.wdtPrescaler := by
  unfold State.elapse; split <;> rfl

/-! ### `retire`: the counters, the sample and the end of the exemption -/

@[simp] theorem retire_pc (s : State) : s.retire.pc = s.pc := by
  simp [State.retire]
@[simp] theorem retire_w (s : State) : s.retire.w = s.w := by
  simp [State.retire]
@[simp] theorem retire_status (s : State) : s.retire.status = s.status := by
  simp [State.retire]
@[simp] theorem retire_fsr (s : State) : s.retire.fsr = s.fsr := by
  simp [State.retire]
@[simp] theorem retire_pclath (s : State) : s.retire.pclath = s.pclath := by
  simp [State.retire]
@[simp] theorem retire_intcon (s : State) : s.retire.intcon = s.intcon := by
  simp [State.retire]
@[simp] theorem retire_stack (s : State) : s.retire.stack = s.stack := by
  simp [State.retire]
@[simp] theorem retire_ram (s : State) : s.retire.ram = s.ram := by
  simp [State.retire]
@[simp] theorem retire_prog (s : State) : s.retire.prog = s.prog := by
  simp [State.retire]
@[simp] theorem retire_asleep (s : State) : s.retire.asleep = s.asleep := by
  simp [State.retire]
@[simp] theorem retire_wdte (s : State) : s.retire.wdte = s.wdte := by
  simp [State.retire]
@[simp] theorem retire_wokeUp (s : State) : s.retire.wokeUp = false := rfl
@[simp] theorem retire_inputs (s : State) : s.retire.inputs = s.inputs.tail := by
  simp [State.retire]

/-! ### The loader of the next instruction -/

/-- A load that answers placed the word at the pc and changed nothing else. -/
theorem loadAtPc_ok {s t : State} {nbits w : Nat} (h : s.loadAtPc nbits w = .ok t) :
    ∃ c, tableWord nbits w = .ok c ∧ t = { s with prog := s.prog.place s.pc.toNat c } := by
  unfold State.loadAtPc at h
  split at h
  · next c hc => exact ⟨c, hc, by cases h; rfl⟩
  · cases h
/-- The inversion of the loader: what an image that loads begins with. -/
theorem loadImage_cons_ok {a n : Nat} {rest : Image} {q : ProgramMemory}
    (h : loadImage ((a, n) :: rest) = .ok q) :
    ∃ w p, imageWord n = .ok w ∧ loadImage rest = .ok p ∧ a < Config.progWords ∧
      p.lookup a = none ∧ q = p.place a w := by
  simp only [loadImage] at h
  split at h
  · cases h
  · cases h
  · next w p hw hp =>
    split at h
    · cases h
    · next ha =>
      split at h
      · cases h
      · next hl => exact ⟨w, p, hw, hp, by omega, by simpa using hl, by cases h; rfl⟩
/-- A program that is loaded replaces the program and changes nothing else. -/
theorem loadProgram_ok {s t : State} {image : Image} (h : s.loadProgram image = .ok t) :
    ∃ p, loadImage image = .ok p ∧ t = { s with prog := p } := by
  unfold State.loadProgram at h
  split at h
  · next p hp => exact ⟨p, hp, by cases h; rfl⟩
  · cases h
@[simp] theorem clearAtPc_pc (s : State) : s.clearAtPc.pc = s.pc := rfl
@[simp] theorem clearAtPc_prog (s : State) : s.clearAtPc.prog = s.prog.clear s.pc.toNat := rfl
@[simp] theorem readyToRun_pc (s : State) : s.readyToRun.pc = s.pc := rfl
@[simp] theorem readyToRun_prog (s : State) : s.readyToRun.prog = s.prog := rfl
@[simp] theorem readyToRun_asleep (s : State) : s.readyToRun.asleep = false := rfl
@[simp] theorem readyToRun_gie (s : State) : s.readyToRun.gie = s.gie := rfl

/-- At the boundary `readyToRun` leaves, the instruction at the pc executes. -/
theorem readyToRun_boundaryEvent (s : State) : s.readyToRun.boundaryEvent = .instruction := by
  cases h : s.inputs <;>
    simp [State.readyToRun, State.boundaryEvent, State.input, BoundaryInput.quiet, h]

end Sys2Proof.Machine
end

