-- ==== Sys2Proof/Laws/Ops.lean ====
section
/-! SUPPORT. For each shared operation one lemma that says everything it can do when it answers. -/

namespace Sys2Proof.Machine

/-! ### Operands -/

theorem fileOperand_some {f : Nat} {fa : FileAddr} (h : fileOperand f = some fa) :
    f < 128 ∧ fa = BitVec.ofNat 7 f := by
  unfold fileOperand fileInRange at h
  split at h
  · next hf => exact ⟨by simpa using hf, by simpa using h.symm⟩
  · cases h

theorem fileOperand_of_lt {f : Nat} (h : f < 128) : fileOperand f = some (BitVec.ofNat 7 f) := by
  simp [fileOperand, fileInRange, h]

theorem destOperand_some {d : Nat} {dst : Dest} (h : destOperand d = some dst) :
    (d = 0 ∧ dst = .w) ∨ (d = 1 ∧ dst = .file) := by
  unfold destOperand at h
  split at h
  · exact .inl ⟨rfl, by simpa using h.symm⟩
  · exact .inr ⟨rfl, by simpa using h.symm⟩
  · cases h

theorem bitOperand_some {b i : Nat} (h : bitOperand b = some i) : b < 8 ∧ i = b := by
  unfold bitOperand bitInRange at h
  split at h
  · next hb => exact ⟨by simpa using hb, by simpa using h.symm⟩
  · cases h

theorem bitOperand_of_lt {b : Nat} (h : b < 8) : bitOperand b = some b := by
  simp [bitOperand, bitInRange, h]

theorem literalOperand_some {k : Nat} {v : Byte} (h : literalOperand k = some v) :
    k < 256 ∧ v = BitVec.ofNat 8 k := by
  unfold literalOperand literalInRange at h
  split at h
  · next hk => exact ⟨by simpa using hk, by simpa using h.symm⟩
  · cases h

theorem literalOperand_of_lt {k : Nat} (h : k < 256) :
    literalOperand k = some (BitVec.ofNat 8 k) := by
  simp [literalOperand, literalInRange, h]

theorem targetOperand_some {k : Nat} {v : BitVec 11} (h : targetOperand k = some v) :
    k < 2048 ∧ v = BitVec.ofNat 11 k := by
  unfold targetOperand targetInRange at h
  split at h
  · next hk => exact ⟨by simpa using hk, by simpa using h.symm⟩
  · cases h

theorem targetOperand_of_lt {k : Nat} (h : k < 2048) :
    targetOperand k = some (BitVec.ofNat 11 k) := by
  simp [targetOperand, targetInRange, h]

/-! ### Data memory -/

/-- A read answers, unless the address is a peripheral register. -/
theorem memRead_ok_of_region (s : State) (a : DataAddr) (h : regionOf a ≠ .peripheral) :
    ∃ v, s.memRead a = .ok v := by
  unfold State.memRead
  cases hr : regionOf a <;> simp_all

/-- A read that answers was not of a peripheral register. -/
theorem region_of_memRead_ok {s : State} {a : DataAddr} {v : Byte} (h : s.memRead a = .ok v) :
    regionOf a ≠ .peripheral := by
  intro hr
  simp [State.memRead, hr] at h

/-- A read depends on the registers and RAM only. -/
theorem memRead_peripheral (s : State) {a : DataAddr} (h : regionOf a = .peripheral) :
    s.memRead a = .error (.peripheralAccess a) := by
  simp [State.memRead, h]

/-- A write to a peripheral register is refused. -/
theorem memWrite_peripheral (s : State) {a : DataAddr} (v : Byte) (fl : FlagUpdate)
    (h : regionOf a = .peripheral) : s.memWrite a v fl = .error (.peripheralAccess a) := by
  simp [State.memWrite, h]

/-- A write answers, unless the address is a peripheral register. -/
theorem memWrite_ok_of_region (s : State) (a : DataAddr) (v : Byte) (fl : FlagUpdate)
    (h : regionOf a ≠ .peripheral) : ∃ t, s.memWrite a v fl = .ok t := by
  unfold State.memWrite
  cases hr : regionOf a <;> simp_all

/-- Everything a write to data memory does: the destination its address names takes the byte, STATUS
follows R35 or the listed flags, and no other field changes. -/
structure Wrote (s t : State) (a : DataAddr) (v : Byte) (fl : FlagUpdate) : Prop where
  notPeripheral : regionOf a ≠ .peripheral
  frame : t = { s with
    pc := t.pc, status := t.status, fsr := t.fsr, pclath := t.pclath, intcon := t.intcon, ram := t.ram }
  pcl : regionOf a = .pcl → t.pc = s.pclath ++ v
  notPcl : regionOf a ≠ .pcl → t.pc = s.pc
  status : regionOf a = .status → t.status = writeStatus s.status v fl
  notStatus : regionOf a ≠ .status → t.status = applyFlags s.status fl
  fsr : regionOf a = .fsr → t.fsr = v
  notFsr : regionOf a ≠ .fsr → t.fsr = s.fsr
  pclath : regionOf a = .pclath → t.pclath = v.extractLsb' 0 5
  notPclath : regionOf a ≠ .pclath → t.pclath = s.pclath
  intcon : regionOf a = .intcon → t.intcon = v
  notIntcon : regionOf a ≠ .intcon → t.intcon = s.intcon
  ram : ∀ cell, regionOf a = .ram cell → t.ram = s.ram.write cell v
  notRam : (∀ cell, regionOf a ≠ .ram cell) → t.ram = s.ram

theorem memWrite_ok {s t : State} {a : DataAddr} {v : Byte} {fl : FlagUpdate}
    (h : s.memWrite a v fl = .ok t) : Wrote s t a v fl := by
  unfold State.memWrite at h
  cases hr : regionOf a <;> simp only [hr] at h <;> cases h <;>
    constructor <;> simp_all [State.setFlags]

/-- The fields no write to data memory touches. -/
theorem wrote_keeps {s t : State} {a : DataAddr} {v : Byte} {fl : FlagUpdate}
    (h : Wrote s t a v fl) :
    t.w = s.w ∧ t.stack = s.stack ∧ t.prog = s.prog ∧ t.wdt = s.wdt ∧
      t.wdtPrescaler = s.wdtPrescaler ∧ t.asleep = s.asleep ∧ t.wdte = s.wdte ∧
      t.wokeUp = s.wokeUp ∧ t.inputs = s.inputs := by
  rw [h.frame]
  exact ⟨rfl, rfl, rfl, rfl, rfl, rfl, rfl, rfl, rfl⟩

/-- A destination W takes the byte and the listed flags; a file destination is a memory write. -/
theorem writeDest_w (s : State) (a : DataAddr) (v : Byte) (fl : FlagUpdate) :
    s.writeDest .w a v fl = .ok { s with w := v, status := applyFlags s.status fl } := rfl

theorem writeDest_file (s : State) (a : DataAddr) (v : Byte) (fl : FlagUpdate) :
    s.writeDest .file a v fl = s.memWrite a v fl := rfl

/-! ### The return stack and interrupts -/

theorem push_ok {s t : State} {v : ProgAddr} (h : s.push v = .ok t) :
    s.stack.length < Config.stackDepth ∧ t = { s with stack := v :: s.stack } := by
  unfold State.push at h
  split at h
  · next hl => exact ⟨hl, by simpa using h.symm⟩
  · cases h

theorem push_of_lt (s : State) (v : ProgAddr) (h : s.stack.length < Config.stackDepth) :
    s.push v = .ok { s with stack := v :: s.stack } := by
  simp [State.push, h]

theorem push_full (s : State) (v : ProgAddr) (h : Config.stackDepth ≤ s.stack.length) :
    s.push v = .error .stackOverflow := by
  simp [State.push, Nat.not_lt_of_le h]

theorem popPc_ok {s t : State} (h : s.popPc = .ok t) :
    ∃ v rest, s.stack = v :: rest ∧ t = { s with pc := v, stack := rest } := by
  unfold State.popPc at h
  split at h
  · cases h
  · next v rest hs => exact ⟨v, rest, hs, by simpa using h.symm⟩

theorem popPc_cons {s : State} {v : ProgAddr} {rest : List ProgAddr} (h : s.stack = v :: rest) :
    s.popPc = .ok { s with pc := v, stack := rest } := by
  simp [State.popPc, h]

theorem popPc_nil {s : State} (h : s.stack = []) : s.popPc = .error .stackUnderflow := by
  simp [State.popPc, h]

/-- Interrupt entry that answers: the stack had room, the pc was pushed, GIE is 0, the pc is the
vector. -/
theorem takeInterrupt_ok {s t : State} (h : s.takeInterrupt = .ok t) :
    s.stack.length < Config.stackDepth ∧
      t = { s with
        stack := s.pc :: s.stack
        intcon := setBitTo s.intcon Config.bitGIE false
        pc := Config.interruptVector } := by
  unfold State.takeInterrupt at h
  cases hp : s.push s.pc with
  | error e => simp [hp] at h
  | ok u =>
    obtain ⟨hl, rfl⟩ := push_ok hp
    simp only [hp] at h
    exact ⟨hl, by simpa using h.symm⟩

theorem takeInterrupt_of_lt (s : State) (h : s.stack.length < Config.stackDepth) :
    s.takeInterrupt = .ok { s with
      stack := s.pc :: s.stack
      intcon := setBitTo s.intcon Config.bitGIE false
      pc := Config.interruptVector } := by
  simp [State.takeInterrupt, push_of_lt s s.pc h]

theorem takeInterrupt_full (s : State) (h : Config.stackDepth ≤ s.stack.length) :
    s.takeInterrupt = .error .stackOverflow := by
  simp [State.takeInterrupt, push_full s s.pc h]

/-- The return from an interrupt that answers. -/
theorem returnFromInterrupt_ok {s t : State} (h : s.returnFromInterrupt = .ok t) :
    ∃ v rest, s.stack = v :: rest ∧
      t = { s with pc := v, stack := rest, intcon := setBitTo s.intcon Config.bitGIE true } := by
  unfold State.returnFromInterrupt at h
  cases hp : s.popPc with
  | error e => simp [hp] at h
  | ok u =>
    obtain ⟨v, rest, hs, rfl⟩ := popPc_ok hp
    simp only [hp] at h
    exact ⟨v, rest, hs, by simpa using h.symm⟩

/-! ### Outcomes -/

@[simp] theorem orRefuse_next {x : Except Refusal State} {t : State} :
    orRefuse x = .next t ↔ x = .ok t := by
  cases x <;> simp [orRefuse]

@[simp] theorem orFault_next {x : Except Fault State} {t : State} :
    orFault x = .next t ↔ x = .ok t := by
  cases x <;> simp [orFault]

/-! ### The shapes of the instructions -/

/-- What a byte-oriented instruction does when it answers. -/
theorem fileOp_next {f d : Nat} {alu : Byte → AluOut} {s t : State}
    (h : fileOp f d alu s = .next t) :
    ∃ v, f < 128 ∧ s.memRead (s.resolve (BitVec.ofNat 7 f)) = .ok v ∧
      ((d = 0 ∧ t = { s with
          w := (alu v).value, status := applyFlags s.status (alu v).flags, pc := s.next }) ∨
       (d = 1 ∧ Wrote s.advance t (s.resolve (BitVec.ofNat 7 f)) (alu v).value (alu v).flags)) := by
  unfold fileOp at h
  cases hf : fileOperand f with
  | none => simp [hf] at h
  | some fa =>
    obtain ⟨hlt, rfl⟩ := fileOperand_some hf
    cases hd : destOperand d with
    | none => simp [hf, hd] at h
    | some dst =>
      simp only [hf, hd] at h
      cases hr : s.memRead (s.resolve (BitVec.ofNat 7 f)) with
      | error r => simp [hr] at h
      | ok v =>
        simp only [hr, orRefuse_next] at h
        refine ⟨v, hlt, rfl, ?_⟩
        rcases destOperand_some hd with ⟨rfl, rfl⟩ | ⟨rfl, rfl⟩
        · rw [writeDest_w] at h
          exact .inl ⟨rfl, by cases h; rfl⟩
        · exact .inr ⟨rfl, memWrite_ok h⟩

/-- A byte-oriented instruction with a readable operand and W as its destination answers. -/
theorem fileOp_w {f : Nat} {alu : Byte → AluOut} {s : State} {v : Byte} (hf : f < 128)
    (hv : s.memRead (s.resolve (BitVec.ofNat 7 f)) = .ok v) :
    fileOp f 0 alu s = .next { s with
      w := (alu v).value, status := applyFlags s.status (alu v).flags, pc := s.next } := by
  simp [fileOp, fileOperand_of_lt hf, destOperand, hv, writeDest_w, orRefuse, State.advance]

/-- A byte-oriented instruction with a readable operand and the register as its destination is the
write of its result. -/
theorem fileOp_file {f : Nat} {alu : Byte → AluOut} {s : State} {v : Byte} (hf : f < 128)
    (hv : s.memRead (s.resolve (BitVec.ofNat 7 f)) = .ok v) :
    fileOp f 1 alu s =
      orRefuse (s.advance.memWrite (s.resolve (BitVec.ofNat 7 f)) (alu v).value (alu v).flags) := by
  simp [fileOp, fileOperand_of_lt hf, destOperand, hv, writeDest_file]

/-- What CLRF and MOVWF do when they answer. -/
theorem fileStore_next {f : Nat} {out : AluOut} {s t : State} (h : fileStore f out s = .next t) :
    f < 128 ∧ Wrote s.advance t (s.resolve (BitVec.ofNat 7 f)) out.value out.flags := by
  unfold fileStore at h
  cases hf : fileOperand f with
  | none => simp [hf] at h
  | some fa =>
    obtain ⟨hlt, rfl⟩ := fileOperand_some hf
    simp only [hf, orRefuse_next] at h
    exact ⟨hlt, memWrite_ok h⟩

/-- The address at which a counting skip instruction goes on. -/
def skipTarget (s : State) (r : Byte) : ProgAddr := if r = 0x00#8 then s.next2 else s.next

/-- What DECFSZ and INCFSZ do when they answer. -/
theorem fileSkipOp_next {f d : Nat} {g : Byte → Byte} {s t : State}
    (h : fileSkipOp f d g s = .next t) :
    ∃ v, f < 128 ∧ s.memRead (s.resolve (BitVec.ofNat 7 f)) = .ok v ∧
      ((d = 0 ∧ t = { s with w := g v, pc := skipTarget s (g v) }) ∨
       (d = 1 ∧ regionOf (s.resolve (BitVec.ofNat 7 f)) ≠ .pcl ∧
        Wrote { s with pc := skipTarget s (g v) } t (s.resolve (BitVec.ofNat 7 f)) (g v)
          noFlags)) := by
  unfold fileSkipOp at h
  cases hf : fileOperand f with
  | none => simp [hf] at h
  | some fa =>
    obtain ⟨hlt, rfl⟩ := fileOperand_some hf
    cases hd : destOperand d with
    | none => simp [hf, hd] at h
    | some dst =>
      simp only [hf, hd] at h
      split at h
      · cases h
      · next hp =>
        cases hr : s.memRead (s.resolve (BitVec.ofNat 7 f)) with
        | error r => simp [hr] at h
        | ok v =>
          simp only [hr, orRefuse_next] at h
          refine ⟨v, hlt, rfl, ?_⟩
          rcases destOperand_some hd with ⟨rfl, rfl⟩ | ⟨rfl, rfl⟩
          · rw [writeDest_w] at h
            exact .inl ⟨rfl, by cases h; rfl⟩
          · exact .inr ⟨rfl, fun hpcl => hp ⟨rfl, hpcl⟩, memWrite_ok h⟩

/-- What BCF and BSF do when they answer. -/
theorem bitWriteOp_next {f b : Nat} {x : Bool} {s t : State} (h : bitWriteOp f b x s = .next t) :
    ∃ v, f < 128 ∧ b < 8 ∧ s.memRead (s.resolve (BitVec.ofNat 7 f)) = .ok v ∧
      Wrote s.advance t (s.resolve (BitVec.ofNat 7 f)) (setBitTo v b x) noFlags := by
  unfold bitWriteOp at h
  cases hf : fileOperand f with
  | none => simp [hf] at h
  | some fa =>
    obtain ⟨hlt, rfl⟩ := fileOperand_some hf
    cases hb : bitOperand b with
    | none => simp [hf, hb] at h
    | some i =>
      obtain ⟨hlb, rfl⟩ := bitOperand_some hb
      simp only [hf, hb] at h
      cases hr : s.memRead (s.resolve (BitVec.ofNat 7 f)) with
      | error r => simp [hr] at h
      | ok v =>
        simp only [hr, orRefuse_next] at h
        exact ⟨v, hlt, hlb, rfl, memWrite_ok h⟩

/-- What BTFSC and BTFSS do when they answer. -/
theorem bitSkipOp_next {f b : Nat} {x : Bool} {s t : State} (h : bitSkipOp f b x s = .next t) :
    ∃ v, f < 128 ∧ b < 8 ∧ s.memRead (s.resolve (BitVec.ofNat 7 f)) = .ok v ∧
      t = { s with pc := if v.getLsbD b = x then s.next2 else s.next } := by
  unfold bitSkipOp at h
  cases hf : fileOperand f with
  | none => simp [hf] at h
  | some fa =>
    obtain ⟨hlt, rfl⟩ := fileOperand_some hf
    cases hb : bitOperand b with
    | none => simp [hf, hb] at h
    | some i =>
      obtain ⟨hlb, rfl⟩ := bitOperand_some hb
      simp only [hf, hb] at h
      cases hr : s.memRead (s.resolve (BitVec.ofNat 7 f)) with
      | error r => simp [hr] at h
      | ok v =>
        simp only [hr] at h
        exact ⟨v, hlt, hlb, rfl, by cases h; rfl⟩

/-- What a literal instruction does when it answers. -/
theorem literalOp_next {k : Nat} {alu : Byte → AluOut} {s t : State}
    (h : literalOp k alu s = .next t) :
    k < 256 ∧ t = { s with
      w := (alu (BitVec.ofNat 8 k)).value
      status := applyFlags s.status (alu (BitVec.ofNat 8 k)).flags
      pc := s.next } := by
  unfold literalOp at h
  cases hk : literalOperand k with
  | none => simp [hk] at h
  | some v =>
    obtain ⟨hlt, rfl⟩ := literalOperand_some hk
    simp only [hk] at h
    exact ⟨hlt, by cases h; rfl⟩

end Sys2Proof.Machine
end

