-- ==== Sys2Proof/Laws/PerInstr.lean ====
section
/-! SUPPORT. Facts stated of every instruction, one lemma per constructor: the encoding of a
well-formed instruction matches its own row of the opcode map (spec/30_encoding.md R98, R102). -/

namespace Sys2Proof.Laws

/-- The mask and match value of an instruction's row of R98. -/
def rowOf : Instr → CodeWord × CodeWord
  | .addwf _ _ => (0x3F00#14, 0x0700#14)
  | .andwf _ _ => (0x3F00#14, 0x0500#14)
  | .clrf _ => (0x3F80#14, 0x0180#14)
  | .clrw => (0x3F80#14, 0x0100#14)
  | .comf _ _ => (0x3F00#14, 0x0900#14)
  | .decf _ _ => (0x3F00#14, 0x0300#14)
  | .decfsz _ _ => (0x3F00#14, 0x0B00#14)
  | .incf _ _ => (0x3F00#14, 0x0A00#14)
  | .incfsz _ _ => (0x3F00#14, 0x0F00#14)
  | .iorwf _ _ => (0x3F00#14, 0x0400#14)
  | .movf _ _ => (0x3F00#14, 0x0800#14)
  | .movwf _ => (0x3F80#14, 0x0080#14)
  | .nop => (0x3F9F#14, 0x0000#14)
  | .rlf _ _ => (0x3F00#14, 0x0D00#14)
  | .rrf _ _ => (0x3F00#14, 0x0C00#14)
  | .subwf _ _ => (0x3F00#14, 0x0200#14)
  | .swapf _ _ => (0x3F00#14, 0x0E00#14)
  | .xorwf _ _ => (0x3F00#14, 0x0600#14)
  | .bcf _ _ => (0x3C00#14, 0x1000#14)
  | .bsf _ _ => (0x3C00#14, 0x1400#14)
  | .btfsc _ _ => (0x3C00#14, 0x1800#14)
  | .btfss _ _ => (0x3C00#14, 0x1C00#14)
  | .addlw _ => (0x3E00#14, 0x3E00#14)
  | .andlw _ => (0x3F00#14, 0x3900#14)
  | .call _ => (0x3800#14, 0x2000#14)
  | .clrwdt => (0x3FFF#14, 0x0064#14)
  | .goto _ => (0x3800#14, 0x2800#14)
  | .iorlw _ => (0x3F00#14, 0x3800#14)
  | .movlw _ => (0x3C00#14, 0x3000#14)
  | .retfie => (0x3FFF#14, 0x0009#14)
  | .retlw _ => (0x3C00#14, 0x3400#14)
  | .ret => (0x3FFF#14, 0x0008#14)
  | .sleep => (0x3FFF#14, 0x0063#14)
  | .sublw _ => (0x3E00#14, 0x3C00#14)
  | .xorlw _ => (0x3F00#14, 0x3A00#14)

/-- Under the row's mask the encoded word is the row's match value. -/
def EncodingMatchesRow.Statement (i : Instr) : Prop :=
  i.wellFormed = true → encode i &&& (rowOf i).1 = (rowOf i).2

/-- R92: `f` and `d` lie outside the mask of a byte-oriented row. -/
theorem encodeByteOp_row (op : CodeWord) (f d : Nat) :
    encodeByteOp op f d &&& 0x3F00#14 = op &&& 0x3F00#14 := by
  have h : ∀ (x : BitVec 7) (y : BitVec 1),
      0x3F00#14 &&& (y.setWidth 14 <<< 7) = 0#14 ∧ 0x3F00#14 &&& x.setWidth 14 = 0#14 := by
    decide +kernel
  simp only [encodeByteOp, BitVec.and_comm _ 0x3F00#14, BitVec.and_or_distrib_left]
  rw [(h (BitVec.ofNat 7 f) (BitVec.ofNat 1 d)).1, (h (BitVec.ofNat 7 f) (BitVec.ofNat 1 d)).2]
  simp

/-- R92: `f` lies outside the mask of CLRF and MOVWF. -/
theorem encodeFileOp_row (op : CodeWord) (f : Nat) :
    encodeFileOp op f &&& 0x3F80#14 = op &&& 0x3F80#14 := by
  have h : ∀ x : BitVec 7, x.setWidth 14 &&& 0x3F80#14 = 0#14 := by decide +kernel
  simp only [encodeFileOp, BitVec.and_comm _ 0x3F80#14, BitVec.and_or_distrib_left]
  rw [BitVec.and_comm _ (BitVec.setWidth 14 (BitVec.ofNat 7 f)), h]
  simp

/-- R93: `f` and `b` lie outside the mask of a bit-oriented row. -/
theorem encodeBitOp_row (op : CodeWord) (f b : Nat) :
    encodeBitOp op f b &&& 0x3C00#14 = op &&& 0x3C00#14 := by
  have h : ∀ (x : BitVec 7) (y : BitVec 3),
      0x3C00#14 &&& (y.setWidth 14 <<< 7) = 0#14 ∧ 0x3C00#14 &&& x.setWidth 14 = 0#14 := by
    decide +kernel
  simp only [encodeBitOp, BitVec.and_comm _ 0x3C00#14, BitVec.and_or_distrib_left]
  rw [(h (BitVec.ofNat 7 f) (BitVec.ofNat 3 b)).1, (h (BitVec.ofNat 7 f) (BitVec.ofNat 3 b)).2]
  simp

/-- R94: `k` lies outside the mask of a literal row, whatever its don't-care bits. -/
theorem encodeLiteral_row (op m : CodeWord) (k : Nat) (hm : m &&& 0x00FF#14 = 0#14) :
    encodeLiteral op k &&& m = op &&& m := by
  have h : ∀ x : BitVec 8, x.setWidth 14 = x.setWidth 14 &&& 0x00FF#14 := by decide +kernel
  simp only [encodeLiteral, BitVec.and_comm _ m, BitVec.and_or_distrib_left]
  rw [h (BitVec.ofNat 8 k), BitVec.and_comm (BitVec.setWidth 14 _), ← BitVec.and_assoc, hm]
  simp

/-- R95: `k` lies outside the mask of CALL and GOTO. -/
theorem encodeTarget_row (op : CodeWord) (k : Nat) :
    encodeTarget op k &&& 0x3800#14 = op &&& 0x3800#14 := by
  have h : ∀ x : BitVec 11, x.setWidth 14 &&& 0x3800#14 = 0#14 := by decide +kernel
  simp only [encodeTarget, BitVec.and_comm _ 0x3800#14, BitVec.and_or_distrib_left]
  rw [BitVec.and_comm _ (BitVec.setWidth 14 (BitVec.ofNat 11 k)), h]
  simp

namespace EncodingMatchesRow

theorem addwf (f d : Nat) : Statement (.addwf f d) := fun _ => encodeByteOp_row 0x0700#14 f d
theorem andwf (f d : Nat) : Statement (.andwf f d) := fun _ => encodeByteOp_row 0x0500#14 f d
theorem clrf (f : Nat) : Statement (.clrf f) := fun _ => encodeFileOp_row 0x0180#14 f
theorem clrw : Statement (.clrw) := fun _ => rfl
theorem comf (f d : Nat) : Statement (.comf f d) := fun _ => encodeByteOp_row 0x0900#14 f d
theorem decf (f d : Nat) : Statement (.decf f d) := fun _ => encodeByteOp_row 0x0300#14 f d
theorem decfsz (f d : Nat) : Statement (.decfsz f d) := fun _ => encodeByteOp_row 0x0B00#14 f d
theorem incf (f d : Nat) : Statement (.incf f d) := fun _ => encodeByteOp_row 0x0A00#14 f d
theorem incfsz (f d : Nat) : Statement (.incfsz f d) := fun _ => encodeByteOp_row 0x0F00#14 f d
theorem iorwf (f d : Nat) : Statement (.iorwf f d) := fun _ => encodeByteOp_row 0x0400#14 f d
theorem movf (f d : Nat) : Statement (.movf f d) := fun _ => encodeByteOp_row 0x0800#14 f d
theorem movwf (f : Nat) : Statement (.movwf f) := fun _ => encodeFileOp_row 0x0080#14 f
theorem nop : Statement (.nop) := fun _ => rfl
theorem rlf (f d : Nat) : Statement (.rlf f d) := fun _ => encodeByteOp_row 0x0D00#14 f d
theorem rrf (f d : Nat) : Statement (.rrf f d) := fun _ => encodeByteOp_row 0x0C00#14 f d
theorem subwf (f d : Nat) : Statement (.subwf f d) := fun _ => encodeByteOp_row 0x0200#14 f d
theorem swapf (f d : Nat) : Statement (.swapf f d) := fun _ => encodeByteOp_row 0x0E00#14 f d
theorem xorwf (f d : Nat) : Statement (.xorwf f d) := fun _ => encodeByteOp_row 0x0600#14 f d
theorem bcf (f b : Nat) : Statement (.bcf f b) := fun _ => encodeBitOp_row 0x1000#14 f b
theorem bsf (f b : Nat) : Statement (.bsf f b) := fun _ => encodeBitOp_row 0x1400#14 f b
theorem btfsc (f b : Nat) : Statement (.btfsc f b) := fun _ => encodeBitOp_row 0x1800#14 f b
theorem btfss (f b : Nat) : Statement (.btfss f b) := fun _ => encodeBitOp_row 0x1C00#14 f b
theorem addlw (k : Nat) : Statement (.addlw k) := fun _ => encodeLiteral_row 0x3E00#14 0x3E00#14 k rfl
theorem andlw (k : Nat) : Statement (.andlw k) := fun _ => encodeLiteral_row 0x3900#14 0x3F00#14 k rfl
theorem call (k : Nat) : Statement (.call k) := fun _ => encodeTarget_row 0x2000#14 k
theorem clrwdt : Statement (.clrwdt) := fun _ => rfl
theorem goto (k : Nat) : Statement (.goto k) := fun _ => encodeTarget_row 0x2800#14 k
theorem iorlw (k : Nat) : Statement (.iorlw k) := fun _ => encodeLiteral_row 0x3800#14 0x3F00#14 k rfl
theorem movlw (k : Nat) : Statement (.movlw k) := fun _ => encodeLiteral_row 0x3000#14 0x3C00#14 k rfl
theorem retfie : Statement (.retfie) := fun _ => rfl
theorem retlw (k : Nat) : Statement (.retlw k) := fun _ => encodeLiteral_row 0x3400#14 0x3C00#14 k rfl
theorem ret : Statement (.ret) := fun _ => rfl
theorem sleep : Statement (.sleep) := fun _ => rfl
theorem sublw (k : Nat) : Statement (.sublw k) := fun _ => encodeLiteral_row 0x3C00#14 0x3E00#14 k rfl
theorem xorlw (k : Nat) : Statement (.xorlw k) := fun _ => encodeLiteral_row 0x3A00#14 0x3F00#14 k rfl

end EncodingMatchesRow

end Sys2Proof.Laws
end

