-- ==== Sys2Proof/Laws/Step.lean ====
section
/-! SUPPORT. What a step can do, said once. -/

namespace Sys2Proof.Machine

/-- The fetch that answers: the word placed at the pc decodes to the instruction. -/
theorem fetch_ok {s : State} {i : Instr} (h : s.fetch = .ok i) :
    ∃ w, s.prog.lookup s.pc.toNat = some w ∧ decode w = .ok i := by
  unfold State.fetch at h
  cases hl : s.prog.lookup s.pc.toNat with
  | none => simp [hl] at h
  | some w =>
    simp only [hl] at h
    cases hd : decode w with
    | error e => simp [hd] at h
    | ok j =>
      simp only [hd] at h
      exact ⟨w, rfl, by cases h; exact hd⟩

/-- An instruction that completes in a step: it was fetched, executed and retired. -/
theorem runInstruction_next {s t : State} (h : runInstruction s = .next t) :
    ∃ i u, s.fetch = .ok i ∧ exec i s = .next u ∧ t = u.retire := by
  unfold runInstruction at h
  cases hf : s.fetch with
  | error r => simp [hf] at h
  | ok i =>
    simp only [hf] at h
    cases he : exec i s with
    | next u =>
      simp only [he] at h
      exact ⟨i, u, rfl, he, by cases h; rfl⟩
    | fault e => simp [he] at h
    | refused r => simp [he] at h

/-- R247(a): the run of a sleeping core is over exactly when WDTE is 0 and no sample is left. -/
theorem boundaryEvent_eq_noWakeLeft_iff (s : State) :
    s.boundaryEvent = .noWakeLeft ↔ s.asleep = true ∧ s.wdte = false ∧ s.inputs = [] := by
  constructor
  · intro h
    unfold State.boundaryEvent at h
    revert h
    repeat' split
    all_goals simp_all
  · rintro ⟨ha, hw, hi⟩
    simp [State.boundaryEvent, State.input, ha, hw, hi]

/-- The inversion of a step: which event the boundary took, and the state it leaves. -/
theorem step_next {s t : State} (h : step s = .next t) :
    (s.boundaryEvent = .externalReset ∧ t = s.externalReset.passBoundary) ∨
    (s.boundaryEvent = .watchdogReset ∧ t = s.watchdogReset.passBoundary) ∨
    (s.boundaryEvent = .watchdogWake ∧ t = s.watchdogWake.passBoundary) ∨
    (s.boundaryEvent = .interruptWake ∧ t = s.interruptWake.passBoundary) ∨
    (s.boundaryEvent = .sleeping ∧ t = s.elapse.passBoundary) ∨
    (s.boundaryEvent = .interruptEntry ∧ s.passBoundary.takeInterrupt = .ok t) ∨
    (s.boundaryEvent = .instruction ∧
      ∃ i u, s.fetch = .ok i ∧ exec i s = .next u ∧ t = u.retire) := by
  unfold step at h
  cases hb : s.boundaryEvent <;> simp only [hb] at h
  · exact .inl ⟨rfl, by cases h; rfl⟩
  · exact .inr (.inl ⟨rfl, by cases h; rfl⟩)
  · exact .inr (.inr (.inl ⟨rfl, by cases h; rfl⟩))
  · exact .inr (.inr (.inr (.inl ⟨rfl, by cases h; rfl⟩)))
  · exact .inr (.inr (.inr (.inr (.inl ⟨rfl, by cases h; rfl⟩))))
  · cases h
  · exact .inr (.inr (.inr (.inr (.inr (.inl ⟨rfl, orFault_next.1 h⟩)))))
  · exact .inr (.inr (.inr (.inr (.inr (.inr ⟨rfl, runInstruction_next h⟩)))))

end Sys2Proof.Machine
end

