-- ==== Sys2Proof/Machine/Timing.lean ====
section
/-! DEFINITION. Instruction cycle counts, spec/70_reset_and_hazards.md R250. No rule of the machine
reads them: the model keeps no time (R251, log 23). -/

namespace Sys2Proof.Machine

/-- R250: whether the operand `f`, as a destination, is PCL. -/
def namesPCL (f : Nat) (s : State) : Bool := regionOf (s.resolve (BitVec.ofNat 7 f)) == .pcl

/-- R250: one cycle, two when the file register written is PCL. -/
def storeCycles (f d : Nat) (s : State) : Nat := if d == 1 && namesPCL f s then 2 else 1

/-- R250: one cycle, two when the skip is taken. -/
def skipCycles (i : Instr) (s : State) : Nat :=
  match exec i s with
  | .next t => if t.pc = s.next2 then 2 else 1
  | .fault _ => 1
  | .refused _ => 1

/-- R250: the cycles of an instruction that completes in a state. -/
def instrCycles (i : Instr) (s : State) : Nat :=
  match i with
  | .addwf f d => storeCycles f d s
  | .andwf f d => storeCycles f d s
  | .clrf f => storeCycles f 1 s
  | .clrw => 1
  | .comf f d => storeCycles f d s
  | .decf f d => storeCycles f d s
  | .decfsz f d => skipCycles (.decfsz f d) s
  | .incf f d => storeCycles f d s
  | .incfsz f d => skipCycles (.incfsz f d) s
  | .iorwf f d => storeCycles f d s
  | .movf f d => storeCycles f d s
  | .movwf f => storeCycles f 1 s
  | .nop => 1
  | .rlf f d => storeCycles f d s
  | .rrf f d => storeCycles f d s
  | .subwf f d => storeCycles f d s
  | .swapf f d => storeCycles f d s
  | .xorwf f d => storeCycles f d s
  | .bcf f _ => storeCycles f 1 s
  | .bsf f _ => storeCycles f 1 s
  | .btfsc f b => skipCycles (.btfsc f b) s
  | .btfss f b => skipCycles (.btfss f b) s
  | .addlw _ => 1
  | .andlw _ => 1
  | .call _ => 2
  | .clrwdt => 1
  | .goto _ => 2
  | .iorlw _ => 1
  | .movlw _ => 1
  | .retfie => 2
  | .retlw _ => 2
  | .ret => 2
  | .sleep => 1
  | .sublw _ => 1
  | .xorlw _ => 1

end Sys2Proof.Machine
end

