-- ==== Sys2Proof/Tests/Slice0.lean ====
section
/-! SUPPORT. Tests: ill-formed terms refused, words written out from spec/30_encoding.md R98, single
steps with the results of spec/95_test_vectors.md (Parts L1 and L2, named in each docstring), and for
every statement with hypotheses a concrete state that meets them. -/

namespace Sys2Proof.Tests

open Sys2Proof Sys2Proof.Machine Sys2Proof.Claims

/-! ### Helpers -/

/-- The state the vectors of Part L2 start from: the pc at 0100h, otherwise the reset state. -/
def start : State := { State.reset with pc := 0x0100#13 }

/-- What most vectors look at: pc, W, STATUS and RAM of a next state. -/
def seen : Result → Option (ProgAddr × Byte × Byte × Memory)
  | .next t => some (t.pc, t.w, t.status, t.ram)
  | .fault _ => none
  | .refused _ => none

/-- The stack (top first), INTCON, PCLATH and FSR of a next state. -/
def seenRegisters : Result → Option (List ProgAddr × Byte × BitVec 5 × Byte)
  | .next t => some (t.stack, t.intcon, t.pclath, t.fsr)
  | .fault _ => none
  | .refused _ => none

/-- The sleep state, the wake-up mark and the watchdog counters of a next state. -/
def seenSleep : Result → Option (Bool × Bool × Nat × Nat)
  | .next t => some (t.asleep, t.wokeUp, t.wdt, t.wdtPrescaler)
  | .fault _ => none
  | .refused _ => none

def faultOf : Result → Option Fault
  | .next _ => none
  | .fault e => some e
  | .refused _ => none

def refusalOf : Result → Option Refusal
  | .next _ => none
  | .fault _ => none
  | .refused r => some r

/-- One step with the word `n` placed at the pc. -/
def run1 (n : Nat) (s : State) : Result := step (s.withFetchWord 14 n)

/-- `seen` after one step with the word `n` placed at the pc. -/
def after (n : Nat) (s : State) : Option (ProgAddr × Byte × Byte × Memory) := seen (run1 n s)

/-- A full return stack. -/
def fullStack : List ProgAddr :=
  [0x0008#13, 0x0007#13, 0x0006#13, 0x0005#13, 0x0004#13, 0x0003#13, 0x0002#13, 0x0001#13]

/-- A boundary sample with an interrupt request. -/
def request : BoundaryInput := { irqPending := true }

/-- A boundary sample with a watchdog time-out, and a request beside it. -/
def timeOut : BoundaryInput := { wdtTimeout := true, irqPending := true }

/-- A boundary sample with everything at once. -/
def reset3 : BoundaryInput := { mclr := true, wdtTimeout := true, irqPending := true }

/-! ### WellFormed: an ill-formed term for each check (R110) -/

theorem test_wf_file_range : (Instr.movwf 128).wellFormed = false := by decide
theorem test_wf_file_range_f_d : (Instr.addwf 128 0).wellFormed = false := by decide
theorem test_wf_dest_range : (Instr.addwf 0x20 2).wellFormed = false := by decide
theorem test_wf_bit_range : (Instr.bcf 0x20 8).wellFormed = false := by decide
theorem test_wf_literal_range : (Instr.movlw 256).wellFormed = false := by decide
theorem test_wf_target_range : (Instr.goto 2048).wellFormed = false := by decide
theorem test_wf_extremes :
    (Instr.addwf 127 1).wellFormed = true ∧ (Instr.btfss 127 7).wellFormed = true ∧
    (Instr.movlw 255).wellFormed = true ∧ (Instr.call 2047).wellFormed = true := by decide

/-! ### Decoding: one word for every constructor, written out from its row of R98 -/

theorem test_decode_byte_oriented :
    decode 0b00011110100000#14 = .ok (.addwf 0x20 1) ∧
    decode 0b00010100100000#14 = .ok (.andwf 0x20 0) ∧
    decode 0b00000111111111#14 = .ok (.clrf 0x7F) ∧
    decode 0b00000101111111#14 = .ok .clrw ∧
    decode 0b00100110100001#14 = .ok (.comf 0x21 1) ∧
    decode 0b00001110100000#14 = .ok (.decf 0x20 1) ∧
    decode 0b00101110100000#14 = .ok (.decfsz 0x20 1) ∧
    decode 0b00101000100000#14 = .ok (.incf 0x20 0) ∧
    decode 0b00111111111111#14 = .ok (.incfsz 0x7F 1) := by decide

theorem test_decode_byte_oriented_rest :
    decode 0b00010010100000#14 = .ok (.iorwf 0x20 1) ∧
    decode 0b00100001111111#14 = .ok (.movf 0x7F 0) ∧
    decode 0b00000011111111#14 = .ok (.movwf 0x7F) ∧
    decode 0b00000000100000#14 = .ok .nop ∧
    decode 0b00110110100000#14 = .ok (.rlf 0x20 1) ∧
    decode 0b00110000100000#14 = .ok (.rrf 0x20 0) ∧
    decode 0b00001010000011#14 = .ok (.subwf 0x03 1) ∧
    decode 0b00111000100000#14 = .ok (.swapf 0x20 0) ∧
    decode 0b00011010100000#14 = .ok (.xorwf 0x20 1) := by decide

theorem test_decode_bit_oriented :
    decode 0b01001010000011#14 = .ok (.bcf 0x03 5) ∧
    decode 0b01011010000011#14 = .ok (.bsf 0x03 5) ∧
    decode 0b01100100000011#14 = .ok (.btfsc 0x03 2) ∧
    decode 0b01111111111111#14 = .ok (.btfss 0x7F 7) := by decide

theorem test_decode_literal_and_control :
    decode 0b11111001110000#14 = .ok (.addlw 0x70) ∧
    decode 0b11100101011111#14 = .ok (.andlw 0x5F) ∧
    decode 0b10011111111111#14 = .ok (.call 0x7FF) ∧
    decode 0b00000001100100#14 = .ok .clrwdt ∧
    decode 0b10100000010000#14 = .ok (.goto 0x010) ∧
    decode 0b11100000110101#14 = .ok (.iorlw 0x35) ∧
    decode 0b11000111111111#14 = .ok (.movlw 0xFF) := by decide

theorem test_decode_returns_and_system :
    decode 0b00000000001001#14 = .ok .retfie ∧
    decode 0b11011110101010#14 = .ok (.retlw 0xAA) ∧
    decode 0b00000000001000#14 = .ok .ret ∧
    decode 0b00000001100011#14 = .ok .sleep ∧
    decode 0b11110111111111#14 = .ok (.sublw 0xFF) ∧
    decode 0b11101010101111#14 = .ok (.xorlw 0xAF) := by decide

/-- R100: neighbours of the assigned words are refused by name. -/
theorem test_decode_unassigned :
    decode 0x0001#14 = .error (.unassignedEncoding 0x0001#14) ∧
    decode 0x000A#14 = .error (.unassignedEncoding 0x000A#14) ∧
    decode 0x0062#14 = .error (.unassignedEncoding 0x0062#14) ∧
    decode 0x0065#14 = .error (.unassignedEncoding 0x0065#14) ∧
    decode 0x3BFF#14 = .error (.unassignedEncoding 0x3BFF#14) := by decide

/-- R101: a word of an image with a bit above bit 13. -/
theorem test_image_word_too_wide : decodeImageWord 0x4000 = .error (.wordTooWide 0x4000) := by
  decide

/-- R101: an image with a word of 15 bits is refused whole, and so is the load of that word alone,
after which there is no instruction to run. -/
theorem test_malformed_image :
    (start.loadProgram [(0x0001, 0x0000), (0x0000, 0x4000)]) = .error (.wordTooWide 0x0000 0x4000) ∧
    (start.loadAtPc 16 0x4000) = .error (.wordTooWide start.pc.toNat 0x4000) ∧
    refusalOf (step (start.withFetchWord 14 0x4000)) = some (.noInstructionAt start.pc) := by
  refine ⟨?_, ?_, ?_⟩ <;> decide

/-- R98: no two rows of the map share a word. -/
theorem test_rows_disjoint :
    opcodeTable.Pairwise (fun x y => x.pattern &&& (x.mask &&& y.mask) ≠
      y.pattern &&& (x.mask &&& y.mask)) := by decide

/-- R99: re-encoding gives the don't-care bits back as 0. -/
theorem test_encode_dont_care :
    encode (.movlw 0xFF) = 0x30FF#14 ∧ encode (.addlw 0xFF) = 0x3EFF#14 ∧
    encode .clrw = 0x0100#14 ∧ encode (.incfsz 0x7F 1) = 0x0FFF#14 := by decide

/-- The row interface reads the numbers of the opcode table. -/
theorem test_table_word :
    decodeTableWord 14 0x0782 = some (.addwf 0x02 1) ∧ decodeTableWord 16 0x0001 = none := by
  decide

/-! ### One step of each instruction (Part L2: instruction, state before, state after) -/

/-- `addwf 0x20,F` from W=01h, RAM[020h]=FFh: STATUS=1Fh, (Z=1 DC=1 C=1), RAM[020h]=00h. -/
theorem test_addwf_carries_and_zero :
    after 0x07A0 { start with w := 0x01#8, ram := [(0x020, 0xFF#8)] } =
      some (0x0101#13, 0x01#8, 0x1F#8, []) := by
  decide

/-- `addwf 0x02,F` from W=03h, PCLATH=01h, pc=00FEh: STATUS=1Bh, (Z=0 DC=1 C=1), pc=0102h. -/
theorem test_addwf_pcl_jumps :
    after 0x0782 { start with pc := 0x00FE#13, w := 0x03#8, pclath := 0x01#5 } =
      some (0x0102#13, 0x03#8, 0x1B#8, []) := by
  decide

/-- `andwf 0x20,W` from W=F0h, STATUS=1Bh, RAM[020h]=0Fh: W=00h, STATUS=1Fh, (Z=1 DC=1 C=1). -/
theorem test_andwf_keeps_carries :
    after 0x0520 { start with w := 0xF0#8, status := 0x1B#8, ram := [(0x020, 0x0F#8)] } =
      some (0x0101#13, 0x00#8, 0x1F#8, [(0x020, 0x0F#8)]) := by
  decide

/-- `andwf 0x20,F` from W=17h, RAM[020h]=C2h: STATUS=18h, (Z=0 DC=0 C=0), RAM[020h]=02h. -/
theorem test_andwf_file :
    after 0x05A0 { start with w := 0x17#8, ram := [(0x020, 0xC2#8)] } =
      some (0x0101#13, 0x17#8, 0x18#8, [(0x020, 0x02#8)]) := by
  decide

/-- `clrf 0x20` from STATUS=1Bh, RAM[020h]=7Eh: STATUS=1Fh, (Z=1 DC=1 C=1), RAM[020h]=00h. -/
theorem test_clrf_ram :
    after 0x01A0 { start with status := 0x1B#8, ram := [(0x020, 0x7E#8)] } =
      some (0x0101#13, 0x00#8, 0x1F#8, []) := by
  decide

/-- `clrf 0x03` from STATUS=FBh: STATUS=1Fh. -/
theorem test_clrf_status :
    after 0x0183 { start with status := 0xFB#8 } =
      some (0x0101#13, 0x00#8, 0x1F#8, []) := by
  decide

/-- `clrw` from W=5Ah, STATUS=1Bh: W=00h, STATUS=1Fh, (Z=1 DC=1 C=1). -/
theorem test_clrw :
    after 0x0100 { start with w := 0x5A#8, status := 0x1B#8 } =
      some (0x0101#13, 0x00#8, 0x1F#8, []) := by
  decide

/-- `comf 0x20,F` from RAM[020h]=13h: STATUS=18h, (Z=0 DC=0 C=0), RAM[020h]=ECh. -/
theorem test_comf_file :
    after 0x09A0 { start with ram := [(0x020, 0x13#8)] } =
      some (0x0101#13, 0x00#8, 0x18#8, [(0x020, 0xEC#8)]) := by
  decide

/-- `comf 0x20,W` from W=55h, RAM[020h]=FFh: W=00h, STATUS=1Ch, (Z=1 DC=0 C=0), RAM[020h]=FFh. -/
theorem test_comf_w :
    after 0x0920 { start with w := 0x55#8, ram := [(0x020, 0xFF#8)] } =
      some (0x0101#13, 0x00#8, 0x1C#8, [(0x020, 0xFF#8)]) := by
  decide

/-- `decf 0x20,F` from RAM[020h]=01h: STATUS=1Ch, (Z=1 DC=0 C=0), RAM[020h]=00h. -/
theorem test_decf_to_zero :
    after 0x03A0 { start with ram := [(0x020, 0x01#8)] } =
      some (0x0101#13, 0x00#8, 0x1C#8, []) := by
  decide

/-- `decf 0x20,F` from STATUS=1Ch, RAM[020h]=00h: STATUS=18h, (Z=0 DC=0 C=0), RAM[020h]=FFh. -/
theorem test_decf_wraps :
    after 0x03A0 { start with status := 0x1C#8 } =
      some (0x0101#13, 0x00#8, 0x18#8, [(0x020, 0xFF#8)]) := by
  decide

/-- `decfsz 0x20,F` from RAM[020h]=01h: STATUS=18h, (Z=0 DC=0 C=0), RAM[020h]=00h, pc=0102h. -/
theorem test_decfsz_skips :
    after 0x0BA0 { start with ram := [(0x020, 0x01#8)] } =
      some (0x0102#13, 0x00#8, 0x18#8, []) := by
  decide

/-- `decfsz 0x20,F` from RAM[020h]=00h: STATUS=18h, (Z=0 DC=0 C=0), RAM[020h]=FFh. -/
theorem test_decfsz_goes_on :
    after 0x0BA0 start =
      some (0x0101#13, 0x00#8, 0x18#8, [(0x020, 0xFF#8)]) := by
  decide

/-- `incf 0x20,F` from STATUS=18h, RAM[020h]=FFh: STATUS=1Ch, (Z=1 DC=0 C=0), RAM[020h]=00h. -/
theorem test_incf_wraps :
    after 0x0AA0 { start with status := 0x18#8, ram := [(0x020, 0xFF#8)] } =
      some (0x0101#13, 0x00#8, 0x1C#8, []) := by
  decide

/-- `incf 0x00,F` from FSR=21h, RAM[021h]=FFh: STATUS=1Ch, (Z=1 DC=0 C=0), FSR=21h, RAM[021h]=00h. -/
theorem test_incf_indirect :
    after 0x0A80 { start with fsr := 0x21#8, ram := [(0x021, 0xFF#8)] } =
      some (0x0101#13, 0x00#8, 0x1C#8, []) := by
  decide

/-- `incfsz 0x20,F` from RAM[020h]=FFh: STATUS=18h, (Z=0 DC=0 C=0), RAM[020h]=00h, pc=0102h. -/
theorem test_incfsz_skips :
    after 0x0FA0 { start with ram := [(0x020, 0xFF#8)] } =
      some (0x0102#13, 0x00#8, 0x18#8, []) := by
  decide

/-- `incfsz 0x20,F` from STATUS=1Ch, RAM[020h]=FEh: STATUS=1Ch, (Z=1 DC=0 C=0), RAM[020h]=FFh. -/
theorem test_incfsz_keeps_z :
    after 0x0FA0 { start with status := 0x1C#8, ram := [(0x020, 0xFE#8)] } =
      some (0x0101#13, 0x00#8, 0x1C#8, [(0x020, 0xFF#8)]) := by
  decide

/-- `iorwf 0x20,W` from W=91h, RAM[020h]=13h: W=93h, STATUS=18h, (Z=0 DC=0 C=0). -/
theorem test_iorwf_w :
    after 0x0420 { start with w := 0x91#8, ram := [(0x020, 0x13#8)] } =
      some (0x0101#13, 0x93#8, 0x18#8, [(0x020, 0x13#8)]) := by
  decide

/-- `iorwf 0x20,F` from W=00h, RAM[020h]=00h: STATUS=1Ch, (Z=1 DC=0 C=0). -/
theorem test_iorwf_zero :
    after 0x04A0 { start with w := 0x00#8 } =
      some (0x0101#13, 0x00#8, 0x1C#8, []) := by
  decide

/-- `movf 0x02,W` from W=55h, pc=1234h: W=35h, STATUS=18h, (Z=0 DC=0 C=0), pc=1235h. -/
theorem test_movf_reads_next_in_pcl :
    after 0x0802 { start with pc := 0x1234#13, w := 0x55#8 } =
      some (0x1235#13, 0x35#8, 0x18#8, []) := by
  decide

/-- `movf 0x20,F` from W=11h, STATUS=1Ch, RAM[020h]=80h: W=11h, STATUS=18h, (Z=0 DC=0 C=0), RAM[020h]=80h. -/
theorem test_movf_back_to_file :
    after 0x08A0 { start with w := 0x11#8, status := 0x1C#8, ram := [(0x020, 0x80#8)] } =
      some (0x0101#13, 0x11#8, 0x18#8, [(0x020, 0x80#8)]) := by
  decide

/-- `movwf 0x03` from W=00h, STATUS=FFh: STATUS=18h. -/
theorem test_movwf_to_status :
    after 0x0083 { start with w := 0x00#8, status := 0xFF#8 } =
      some (0x0101#13, 0x00#8, 0x18#8, []) := by
  decide

/-- `movwf 0x00` from W=99h, STATUS=98h, FSR=F3h: RAM[073h]=99h. -/
theorem test_movwf_indirect_mirror :
    after 0x0080 { start with w := 0x99#8, status := 0x98#8, fsr := 0xF3#8 } =
      some (0x0101#13, 0x99#8, 0x98#8, [(0x073, 0x99#8)]) := by
  decide

/-- `nop` from pc=1FFFh: pc=0000h. -/
theorem test_nop_wraps_pc :
    after 0x0000 { start with pc := 0x1FFF#13 } =
      some (0x0000#13, 0x00#8, 0x18#8, []) := by
  decide

/-- `rlf 0x20,W` from W=00h, STATUS=19h, RAM[020h]=80h: W=01h, STATUS=19h, (Z=0 DC=0 C=1), RAM[020h]=80h. -/
theorem test_rlf_takes_carry_in :
    after 0x0D20 { start with w := 0x00#8, status := 0x19#8, ram := [(0x020, 0x80#8)] } =
      some (0x0101#13, 0x01#8, 0x19#8, [(0x020, 0x80#8)]) := by
  decide

/-- `rlf 0x20,F` from STATUS=18h, RAM[020h]=E6h: STATUS=19h, (Z=0 DC=0 C=1), RAM[020h]=CCh. -/
theorem test_rlf_carry_out :
    after 0x0DA0 { start with status := 0x18#8, ram := [(0x020, 0xE6#8)] } =
      some (0x0101#13, 0x00#8, 0x19#8, [(0x020, 0xCC#8)]) := by
  decide

/-- `rrf 0x20,W` from W=00h, STATUS=19h, RAM[020h]=00h: W=80h, STATUS=18h, (Z=0 DC=0 C=0). -/
theorem test_rrf_carry_in :
    after 0x0C20 { start with w := 0x00#8, status := 0x19#8 } =
      some (0x0101#13, 0x80#8, 0x18#8, []) := by
  decide

/-- `rrf 0x20,F` from STATUS=18h, RAM[020h]=01h: STATUS=19h, (Z=0 DC=0 C=1), RAM[020h]=00h. -/
theorem test_rrf_carry_out :
    after 0x0CA0 { start with status := 0x18#8, ram := [(0x020, 0x01#8)] } =
      some (0x0101#13, 0x00#8, 0x19#8, []) := by
  decide

/-- `subwf 0x20,F` from W=02h, RAM[020h]=01h: STATUS=18h, (Z=0 DC=0 C=0), RAM[020h]=FFh. -/
theorem test_subwf_borrow :
    after 0x02A0 { start with w := 0x02#8, ram := [(0x020, 0x01#8)] } =
      some (0x0101#13, 0x02#8, 0x18#8, [(0x020, 0xFF#8)]) := by
  decide

/-- `subwf 0x20,W` from W=01h, RAM[020h]=10h: W=0Fh, STATUS=19h, (Z=0 DC=0 C=1). -/
theorem test_subwf_digit_borrow :
    after 0x0220 { start with w := 0x01#8, ram := [(0x020, 0x10#8)] } =
      some (0x0101#13, 0x0F#8, 0x19#8, [(0x020, 0x10#8)]) := by
  decide

/-- `swapf 0x20,W` from W=00h, STATUS=1Ch, RAM[020h]=A5h: W=5Ah, STATUS=1Ch, (Z=1 DC=0 C=0). -/
theorem test_swapf_w :
    after 0x0E20 { start with w := 0x00#8, status := 0x1C#8, ram := [(0x020, 0xA5#8)] } =
      some (0x0101#13, 0x5A#8, 0x1C#8, [(0x020, 0xA5#8)]) := by
  decide

/-- `swapf 0x03,F` from STATUS=1Ah: STATUS=B9h. -/
theorem test_swapf_status :
    after 0x0E83 { start with status := 0x1A#8 } =
      some (0x0101#13, 0x00#8, 0xB9#8, []) := by
  decide

/-- `xorwf 0x20,F` from W=B5h, RAM[020h]=AFh: STATUS=18h, (Z=0 DC=0 C=0), RAM[020h]=1Ah. -/
theorem test_xorwf_file :
    after 0x06A0 { start with w := 0xB5#8, ram := [(0x020, 0xAF#8)] } =
      some (0x0101#13, 0xB5#8, 0x18#8, [(0x020, 0x1A#8)]) := by
  decide

/-- `xorwf 0x20,W` from W=5Ah, RAM[020h]=5Ah: W=00h, STATUS=1Ch, (Z=1 DC=0 C=0). -/
theorem test_xorwf_zero :
    after 0x0620 { start with w := 0x5A#8, ram := [(0x020, 0x5A#8)] } =
      some (0x0101#13, 0x00#8, 0x1C#8, [(0x020, 0x5A#8)]) := by
  decide

/-- `bcf 0x20,7` from RAM[020h]=FFh: RAM[020h]=7Fh. -/
theorem test_bcf_top_bit :
    after 0x13A0 { start with ram := [(0x020, 0xFF#8)] } =
      some (0x0101#13, 0x00#8, 0x18#8, [(0x020, 0x7F#8)]) := by
  decide

/-- `bcf 0x03,4` from STATUS=18h: no change but pc. -/
theorem test_bcf_nto_kept :
    after 0x1203 { start with status := 0x18#8 } =
      some (0x0101#13, 0x00#8, 0x18#8, []) := by
  decide

/-- `bsf 0x03,6` from STATUS=18h: STATUS=58h. -/
theorem test_bsf_bank_bit :
    after 0x1703 { start with status := 0x18#8 } =
      some (0x0101#13, 0x00#8, 0x58#8, []) := by
  decide

/-- `bsf 0x02,0` from PCLATH=01h, pc=0100h: pc=0101h. -/
theorem test_bsf_pcl :
    after 0x1402 { start with pc := 0x0100#13, pclath := 0x01#5 } =
      some (0x0101#13, 0x00#8, 0x18#8, []) := by
  decide

/-- `btfsc 0x20,0` from pc=1FFFh, RAM[020h]=FEh: pc=0001h. -/
theorem test_btfsc_wraps :
    after 0x1820 { start with pc := 0x1FFF#13, ram := [(0x020, 0xFE#8)] } =
      some (0x0001#13, 0x00#8, 0x18#8, [(0x020, 0xFE#8)]) := by
  decide

/-- `btfsc 0x03,2` from STATUS=1Ch, pc=0100h: pc=0101h. -/
theorem test_btfsc_bit_set :
    after 0x1903 { start with pc := 0x0100#13, status := 0x1C#8 } =
      some (0x0101#13, 0x00#8, 0x1C#8, []) := by
  decide

/-- `btfss 0x20,0` from pc=1FFEh, RAM[020h]=01h: pc=0000h. -/
theorem test_btfss_wraps :
    after 0x1C20 { start with pc := 0x1FFE#13, ram := [(0x020, 0x01#8)] } =
      some (0x0000#13, 0x00#8, 0x18#8, [(0x020, 0x01#8)]) := by
  decide

/-- `btfss 0x20,7` from pc=0100h, RAM[020h]=7Fh: pc=0101h. -/
theorem test_btfss_bit_clear :
    after 0x1FA0 { start with pc := 0x0100#13, ram := [(0x020, 0x7F#8)] } =
      some (0x0101#13, 0x00#8, 0x18#8, [(0x020, 0x7F#8)]) := by
  decide

/-- `addlw 0xFA` from W=19h: W=13h, STATUS=1Bh, (Z=0 DC=1 C=1). -/
theorem test_addlw_digit_carry :
    after 0x3EFA { start with w := 0x19#8 } =
      some (0x0101#13, 0x13#8, 0x1B#8, []) := by
  decide

/-- `addlw 0x01` from W=FFh: W=00h, STATUS=1Fh, (Z=1 DC=1 C=1). -/
theorem test_addlw_wraps :
    after 0x3E01 { start with w := 0xFF#8 } =
      some (0x0101#13, 0x00#8, 0x1F#8, []) := by
  decide

/-- `andlw 0x5F` from W=A3h: W=03h, STATUS=18h, (Z=0 DC=0 C=0). -/
theorem test_andlw :
    after 0x395F { start with w := 0xA3#8 } =
      some (0x0101#13, 0x03#8, 0x18#8, []) := by
  decide

/-- `iorlw 0x35` from W=9Ah: W=BFh, STATUS=18h, (Z=0 DC=0 C=0). -/
theorem test_iorlw :
    after 0x3835 { start with w := 0x9A#8 } =
      some (0x0101#13, 0xBF#8, 0x18#8, []) := by
  decide

/-- `movlw 0x19` from W=00h, STATUS=1Fh: W=19h, STATUS=1Fh, (Z=1 DC=1 C=1). -/
theorem test_movlw :
    after 0x3019 { start with w := 0x00#8, status := 0x1F#8 } =
      some (0x0101#13, 0x19#8, 0x1F#8, []) := by
  decide

/-- `sublw 0x0A` from W=08h: W=02h, STATUS=1Bh, (Z=0 DC=1 C=1). -/
theorem test_sublw_literal_minus_w :
    after 0x3C0A { start with w := 0x08#8 } =
      some (0x0101#13, 0x02#8, 0x1B#8, []) := by
  decide

/-- `sublw 0x08` from W=0Ah: W=FEh, STATUS=18h, (Z=0 DC=0 C=0). -/
theorem test_sublw_borrow :
    after 0x3C08 { start with w := 0x0A#8 } =
      some (0x0101#13, 0xFE#8, 0x18#8, []) := by
  decide

/-- `xorlw 0xAF` from W=B5h: W=1Ah, STATUS=18h, (Z=0 DC=0 C=0). -/
theorem test_xorlw :
    after 0x3AAF { start with w := 0xB5#8 } =
      some (0x0101#13, 0x1A#8, 0x18#8, []) := by
  decide

/-- `goto 0x7FF` from PCLATH=18h, pc=0000h: pc=1FFFh. -/
theorem test_goto_page :
    after 0x2FFF { start with pc := 0x0000#13, pclath := 0x18#5 } =
      some (0x1FFF#13, 0x00#8, 0x18#8, []) := by
  decide

/-- `goto 0x010` from PCLATH=08h, pc=0812h: pc=0810h. -/
theorem test_goto_page_one :
    after 0x2810 { start with pc := 0x0812#13, pclath := 0x08#5 } =
      some (0x0810#13, 0x00#8, 0x18#8, []) := by
  decide

/-- `decfsz 0x02,F`: a skip whose destination is PCL has no meaning (R65). -/
theorem test_skip_into_pcl :
    refusalOf (run1 0x0F82 start) = some .skipWithPCLDestination := by decide

/-- `movwf 0x10` in Bank 0 (Part L2: refuse(PeripheralAccess 010h)). -/
theorem test_peripheral_refused :
    refusalOf (run1 0x0090 start) = some (.peripheralAccess 0x010#9) := by decide

/-- `call 0x020` with PCLATH=08h at 0005h. -/
theorem test_call_page :
    seen (run1 0x2020 { start with pc := 0x0005#13, pclath := 0x08#5 }) =
      some (0x0820#13, 0x00#8, 0x18#8, []) ∧
    seenRegisters (run1 0x2020 { start with pc := 0x0005#13, pclath := 0x08#5 }) =
      some ([0x0006#13], 0x00#8, 0x08#5, 0x00#8) := by
  refine ⟨?_, ?_⟩ <;> decide

/-- `call 0x020` on a full stack: fault(StackOverflow). -/
theorem test_call_overflow :
    faultOf (run1 0x2020 { start with stack := fullStack }) = some .stackOverflow := by
  decide

/-- `return` with stack=[0006h,1ABCh] (top last). -/
theorem test_return_pops :
    seenRegisters (run1 0x0008 { start with stack := [0x1ABC#13, 0x0006#13] }) =
      some ([0x0006#13], 0x00#8, 0x00#5, 0x00#8) ∧
    seen (run1 0x0008 { start with stack := [0x1ABC#13, 0x0006#13] }) =
      some (0x1ABC#13, 0x00#8, 0x18#8, []) := by
  refine ⟨?_, ?_⟩ <;> decide

/-- `return` on an empty stack: fault(StackUnderflow). -/
theorem test_return_underflow : faultOf (run1 0x0008 start) = some .stackUnderflow := by
  decide

/-- `retlw 0x18` from W=12h, stack=[0006h]. -/
theorem test_retlw :
    seen (run1 0x3418 { start with w := 0x12#8, stack := [0x0006#13] }) =
      some (0x0006#13, 0x18#8, 0x18#8, []) := by decide

/-- `retfie` from INTCON=20h, stack=[0123h]. -/
theorem test_retfie :
    seen (run1 0x0009 { start with intcon := 0x20#8, stack := [0x0123#13] }) =
      some (0x0123#13, 0x00#8, 0x18#8, []) ∧
    seenRegisters (run1 0x0009 { start with intcon := 0x20#8, stack := [0x0123#13] }) =
      some ([], 0xA0#8, 0x00#5, 0x00#8) := by
  refine ⟨?_, ?_⟩ <;> decide

/-- `clrwdt` from STATUS=E0h: F8h, and both counters 0 (R190). -/
theorem test_clrwdt :
    after 0x0064 { start with status := 0xE0#8 } = some (0x0101#13, 0x00#8, 0xF8#8, []) ∧
    seenSleep (run1 0x0064 { start with wdt := 9, wdtPrescaler := 5 }) =
      some (false, false, 0, 0) := by decide

/-- `sleep` from STATUS=07h at 0050h: STATUS=17h, asleep. -/
theorem test_sleep :
    after 0x0063 { start with pc := 0x0050#13, status := 0x07#8 } =
      some (0x0051#13, 0x00#8, 0x17#8, []) ∧
    seenSleep (run1 0x0063 { start with wdt := 9, wdtPrescaler := 5 }) =
      some (true, false, 0, 0) := by decide

/-- `sleep` with a request pending is a NOP (R192). -/
theorem test_sleep_with_request :
    seenSleep (exec .sleep { start with inputs := [request], wdt := 9 }) =
      some (false, false, 9, 0) := by decide

/-- `movwf 0x00` with FSR=0Ah: PCLATH through INDF. -/
theorem test_pclath_indirect :
    seenRegisters (run1 0x0080 { start with w := 0xFF#8, fsr := 0x0A#8 }) =
      some ([], 0x00#8, 0x1F#5, 0x0A#8) := by decide

/-! ### Interrupts, watchdog, resets (Part L2) -/

/-- Interrupt entry with INTCON=F8h, PCLATH=18h at 0123h: only GIE is cleared. -/
theorem test_interrupt_entry :
    seenRegisters (step { start with pc := 0x0123#13, intcon := 0xF8#8, pclath := 0x18#5,
                                     inputs := [request] }) =
      some ([0x0123#13], 0x78#8, 0x18#5, 0x00#8) ∧
    seen (step { start with pc := 0x0123#13, intcon := 0xF8#8, inputs := [request] }) =
      some (0x0004#13, 0x00#8, 0x18#8, []) := by
  refine ⟨?_, ?_⟩ <;> decide

/-- Interrupt entry on a stack of 8 entries: fault(StackOverflow). -/
theorem test_interrupt_overflow :
    faultOf (step { start with intcon := 0x80#8, stack := fullStack, inputs := [request] }) =
      some .stackOverflow := by decide

/-- A time-out while awake from STATUS=FFh, INTCON=F9h: STATUS=0Fh, PCLATH=00h, W and RAM kept. -/
theorem test_watchdog_reset :
    seen (step { start with wdte := true, w := 0xA5#8, status := 0xFF#8, intcon := 0xF9#8,
                            ram := [(0x020, 0x77#8)], inputs := [timeOut] }) =
      some (0x0000#13, 0xA5#8, 0x0F#8, [(0x020, 0x77#8)]) ∧
    seenRegisters (step { start with wdte := true, pclath := 0x1F#5, fsr := 0x33#8,
                                     intcon := 0xF9#8, stack := fullStack, inputs := [timeOut] }) =
      some ([], 0x01#8, 0x00#5, 0x33#8) := by
  refine ⟨?_, ?_⟩ <;> decide

/-- A time-out while asleep from STATUS=10h: STATUS=00h, awake, the pc kept; then the instruction
executes before any interrupt entry. -/
theorem test_watchdog_wake :
    seen (step { start with wdte := true, asleep := true, status := 0x10#8, intcon := 0x80#8,
                            inputs := [timeOut] }) =
      some (0x0100#13, 0x00#8, 0x00#8, []) ∧
    State.boundaryEvent { start with wokeUp := true, intcon := 0x80#8, inputs := [request] } =
      .instruction := by decide

/-- External reset awake and asleep (R46: nTO and nPD). -/
theorem test_external_reset :
    seen (step { start with status := 0xE7#8, inputs := [reset3] }) =
      some (0x0000#13, 0x00#8, 0x07#8, []) ∧
    seen (step { start with asleep := true, status := 0x10#8, inputs := [reset3] }) =
      some (0x0000#13, 0x00#8, 0x10#8, []) := by
  refine ⟨?_, ?_⟩ <;> decide

/-- The first step of a run with no program: refuse(NoInstructionAt 0000h). -/
theorem test_reset_without_program :
    refusalOf (step State.reset) = some (.noInstructionAt 0x0000#13) := by decide

/-- The memories of the reset state are in canonical form. -/
theorem test_reset_memories : State.reset.ram.wf ∧ State.reset.prog.wf := by decide

/-- A sleeping core with nothing left to wake it has no step (R193, R247(a)); with WDTE = 1 the same
core sleeps on. -/
theorem test_no_wake_left :
    faultOf (step { start with asleep := true }) = some .asleepNoWake ∧
    seenSleep (step { start with asleep := true, wdte := true }) =
      some (true, false, start.wdt, start.wdtPrescaler) := by
  refine ⟨?_, ?_⟩ <;> decide

/-! ### Cycles (R250) -/

theorem test_cycles :
    instrCycles (.goto 0) start = 2 ∧ instrCycles (.addwf 0x02 1) start = 2 ∧
    instrCycles (.addwf 0x02 0) start = 1 ∧ instrCycles (.btfsc 0x20 0) start = 2 ∧
    instrCycles (.btfss 0x20 0) start = 1 := by decide

/-! ### Assembler (R103 to R111) -/

/-- Part L1.6: the bank-select macros. -/
theorem test_asm_macro :
    Asm.assemble [] [] 0
      ("Bank1 macro\n  bsf STATUS, RP0 ;set RP0 bit\n  endm\n Bank1").toList =
      .ok [.bsf 0x03 5] := by decide

/-- Part L1.7: a table, a label and a programmer's symbol. -/
theorem test_asm_table :
    Asm.assemble [] [("Data0".toList, 0x11)] 0x10
      ("TableName addwf PCL,F\n retlw Data0\n call  TableName ; go").toList =
      .ok [.addwf 2 1, .retlw 0x11, .call 0x10] := by decide

/-- R106: the forms of a number; R108: a file included. -/
theorem test_asm_numbers_and_include :
    Asm.assemble [("M.INC".toList, " movlw 0x3F\n movlw 3Fh".toList)] [] 0
      ("Include \"M.INC\"\n MOVLW B'0011 1000'\n addlw 25").toList =
      .ok [.movlw 0x3F, .movlw 0x3F, .movlw 0x38, .addlw 25] := by decide

/-- Log 22: operands after a macro's name or after `macro` are refused by name, and of two lines with
one label the first gives the address. -/
theorem test_asm_macro_operands :
    Asm.assemble [] [] 0 "M macro
 nop
 endm
 M 3".toList = .error (.macroOperands "M".toList) ∧
    Asm.assemble [] [] 0 "M macro P
 nop
 endm".toList = .error (.macroOperands "M".toList) ∧
    Asm.assemble [] [] 0 "L nop
L nop
 goto L".toList = .ok [.nop, .nop, .goto 0] := by
  refine ⟨?_, ?_, ?_⟩ <;> decide

/-- R109: pseudo-instructions and directives at the start of a line are refused by name, an unknown
word there too. -/
theorem test_asm_outside_spec :
    Asm.assemble [] [] 0 "skpc".toList = .error (.unknownMnemonic "skpc".toList) ∧
    Asm.assemble [] [] 0 " nop
end".toList = .error (.unknownMnemonic "end".toList) ∧
    Asm.assemble [] [] 0 "banksel X".toList = .error (.unknownMnemonic "banksel".toList) ∧
    Asm.assemble [] [] 0 "X equ 5".toList = .error (.unknownMnemonic "equ".toList) ∧
    Asm.assemble [] [] 0 "movfw X".toList =
      .error (.neitherOperation "movfw".toList "X".toList) := by
  refine ⟨?_, ?_, ?_, ?_, ?_⟩ <;> decide

/-- Log 22: a colon is a character of the label. -/
theorem test_asm_colon :
    Asm.assemble [] [] 0 "L: goto L:".toList = .ok [.goto 0] ∧
    Asm.assemble [] [] 0 "L: goto L".toList = .error (.unknownSymbol "L".toList) := by
  refine ⟨?_, ?_⟩ <;> decide

/-- R109, R110: an unknown mnemonic and an operand out of range are refused. -/
theorem test_asm_refusals :
    Asm.assemble [] [] 0 " banksel 3".toList = .error (.unknownMnemonic "banksel".toList) ∧
    Asm.assemble [] [] 0 " movlw 256".toList = .error (.malformedOperand (.movlw 256)) := by
  refine ⟨?_, ?_⟩ <;> decide

/-! ### Witnesses: for each statement with hypotheses, states and operands that meet them -/

theorem witness_DecodeEncodeRoundTrip :
    (Instr.addwf 127 1).wellFormed = true ∧ (Instr.goto 2047).wellFormed = true := by decide

theorem witness_DecodedWordReencodes :
    decode 0x33FF#14 = .ok (.movlw 0xFF) ∧ decode 0x017F#14 = .ok .clrw := by decide

/-- An unassigned word at each end of the seven ranges, and an assigned one beside them. -/
theorem witness_UnassignedWordsAreTheseRanges :
    [0x0001#14, 0x0007#14, 0x000A#14, 0x001F#14, 0x0021#14, 0x003F#14, 0x0041#14, 0x005F#14,
      0x0061#14, 0x0062#14, 0x0065#14, 0x007F#14, 0x3B00#14, 0x3BFF#14].all
      (fun w => decode w == .error (.unassignedEncoding w)) = true ∧
    decode 0x0008#14 = .ok .ret := by decide

/-- The start state with one word of program at the pc. -/
def holding (w : CodeWord) : State := { start with prog := [(0x100, w)] }

/-- A state that fetches an unassigned word. -/
theorem witness_UnassignedWordsAreTheseRanges_fetch :
    RunsInstruction (holding 0x0062#14) ∧
    (holding 0x0062#14).prog.lookup 0x100 = some 0x0062#14 ∧
    decode 0x0062#14 = .error (.unassignedEncoding 0x0062#14) := by
  unfold RunsInstruction; refine ⟨?_, ?_, ?_⟩ <;> decide

/-- A decoded instruction that completes, with the watchdog enabled. -/
theorem witness_StepRunsDecodedInstruction :
    RunsInstruction { holding 0x3019#14 with wdte := true } ∧
    (holding 0x3019#14).prog.lookup 0x100 = some 0x3019#14 ∧
    decode 0x3019#14 = .ok (.movlw 0x19) ∧
    seen (exec (.movlw 0x19) (holding 0x3019#14)) = some (0x0101#13, 0x19#8, 0x18#8, []) := by
  unfold RunsInstruction; refine ⟨?_, ?_, ?_, ?_⟩ <;> decide

/-- A decoded instruction that faults. -/
theorem witness_StepRunsDecodedInstruction_fault :
    RunsInstruction (holding 0x0008#14) ∧ decode 0x0008#14 = .ok .ret ∧
    faultOf (exec .ret (holding 0x0008#14)) = some .stackUnderflow := by
  unfold RunsInstruction; refine ⟨?_, ?_, ?_⟩ <;> decide

/-- A decoded instruction that is refused. -/
theorem witness_StepRunsDecodedInstruction_refusal :
    RunsInstruction (holding 0x0090#14) ∧ decode 0x0090#14 = .ok (.movwf 0x10) ∧
    refusalOf (exec (.movwf 0x10) (holding 0x0090#14)) = some (.peripheralAccess 0x010#9) := by
  unfold RunsInstruction; refine ⟨?_, ?_, ?_⟩ <;> decide

/-- Both clauses: a word that decodes, and nothing placed at the pc of a state that fetches. -/
theorem witness_FetchReadsTheProgram :
    (holding 0x3019#14).prog.lookup 0x100 = some 0x3019#14 ∧
    decode 0x3019#14 = .ok (.movlw 0x19) ∧
    RunsInstruction start ∧ start.prog.lookup 0x100 = none := by
  unfold RunsInstruction; refine ⟨?_, ?_, ?_, ?_⟩ <;> decide

/-- R61 at the ends of its operands, and R62. -/
theorem witness_OperandAddressFormation :
    operandAddr { start with status := 0xF8#8 } 0x7F = 0x1FF#9 ∧
    operandAddr { start with status := 0x98#8 } 0x01 = 0x001#9 ∧
    operandAddr { start with status := 0x98#8, fsr := 0x7F#8 } 0x00 = 0x17F#9 := by decide

/-- Each kind of address at the ends of its rows. -/
theorem witness_DataMap :
    regionOf 0x180#9 = .indf ∧ regionOf 0x102#9 = .pcl ∧ regionOf 0x083#9 = .status ∧
    regionOf 0x184#9 = .fsr ∧ regionOf 0x00A#9 = .pclath ∧ regionOf 0x18B#9 = .intcon ∧
    regionOf 0x020#9 = .ram 0x020 ∧ regionOf 0x06F#9 = .ram 0x06F ∧ regionOf 0x0A0#9 = .ram 0x0A0 ∧
    regionOf 0x0EF#9 = .ram 0x0EF ∧ regionOf 0x110#9 = .ram 0x110 ∧ regionOf 0x16F#9 = .ram 0x16F ∧
    regionOf 0x190#9 = .ram 0x190 ∧ regionOf 0x1EF#9 = .ram 0x1EF ∧ regionOf 0x0F0#9 = .ram 0x070 ∧
    regionOf 0x1FF#9 = .ram 0x07F ∧ regionOf 0x001#9 = .peripheral ∧
    regionOf 0x189#9 = .peripheral ∧ regionOf 0x09F#9 = .peripheral ∧
    regionOf 0x10F#9 = .peripheral := by decide

/-- The three classes of R66 at the ends of their rows, for the clauses of the data map and of
`MemRead`. -/
theorem witness_MemoryReads :
    (OwnRamCell 0x020#9 ∧ OwnRamCell 0x06F#9 ∧ OwnRamCell 0x0A0#9 ∧ OwnRamCell 0x0EF#9) ∧
    (OwnRamCell 0x110#9 ∧ OwnRamCell 0x16F#9 ∧ OwnRamCell 0x190#9 ∧ OwnRamCell 0x1EF#9) ∧
    (CommonRamAddr 0x070#9 ∧ CommonRamAddr 0x07F#9 ∧ CommonRamAddr 0x1F0#9 ∧ CommonRamAddr 0x1FF#9) ∧
    (PeripheralAddr 0x001#9 ∧ PeripheralAddr 0x01F#9 ∧ PeripheralAddr 0x09F#9 ∧
      PeripheralAddr 0x10F#9 ∧ PeripheralAddr 0x189#9) ∧
    (0x180#9).toNat % 128 = 0x00 ∧ (0x102#9).toNat % 128 = 0x02 ∧ (0x083#9).toNat % 128 = 0x03 ∧
    (0x184#9).toNat % 128 = 0x04 ∧ (0x00A#9).toNat % 128 = 0x0A ∧
    (0x18B#9).toNat % 128 = 0x0B := by
  unfold OwnRamCell CommonRamAddr PeripheralAddr; refine ⟨?_, ?_, ?_, ?_, ?_⟩ <;> decide

/-- A store through a mirror, read back through another, and another cell. -/
theorem witness_RamReadsBackWhatWasStored :
    start.ram.wf ∧ regionOf 0x1F0#9 = .ram 0x070 ∧ regionOf 0x170#9 = .ram 0x070 ∧
    regionOf 0x071#9 = .ram 0x071 ∧
    start.memWrite 0x1F0#9 0x5A#8 {} = .ok { start with ram := [(0x070, 0x5A#8)] } := by
  decide

theorem witness_CommonRamSeenFromEveryBank :
    regionOf (operandAddr { start with status := 0x78#8 } 0x70) = .ram 0x70 ∧
    regionOf (operandAddr { start with status := 0x38#8 } 0x7F) = .ram 0x7F := by decide

/-- A readable operand of every kind: RAM, PCL, STATUS, FSR, PCLATH, INTCON, and INDF through
itself. Used by every statement over `f,d`. -/
def readableOperands (s : State) : Bool :=
  [0x00, 0x02, 0x03, 0x04, 0x0A, 0x0B, 0x20, 0x7F].all
    (fun f => match s.memRead (operandAddr s f) with
      | .ok _ => true
      | .error _ => false)

theorem witness_ByteOpCompletes :
    readableOperands start = true ∧ operandAddr start 0x00 = 0x000#9 := by decide

theorem witness_AddwfAddsWAndFile :
    State.memRead { start with ram := [(0x07F, 0xFF#8)] } (operandAddr start 0x7F) = .ok 0xFF#8 := by
  decide

theorem witness_SubwfSubtractsWFromFile :
    State.memRead { start with ram := [(0x020, 0x10#8)] } (operandAddr start 0x20) = .ok 0x10#8 := by
  decide

theorem witness_LogicFileInstructions :
    start.memRead (operandAddr start 0x03) = .ok 0x18#8 := by decide

theorem witness_CountAndMoveInstructions :
    State.memRead { start with fsr := 0xFF#8 } (operandAddr start 0x04) = .ok 0xFF#8 := by
  decide

theorem witness_RotateInstructions :
    State.memRead { start with intcon := 0x80#8 } (operandAddr start 0x0B) = .ok 0x80#8 := by
  decide

theorem witness_SwapfExchangesNibbles :
    State.memRead { start with pclath := 0x1F#5 } (operandAddr start 0x0A) = .ok 0x1F#8 := by
  decide

theorem witness_ClearAndStoreInstructions :
    regionOf (operandAddr start 0x7F) = .ram 0x7F ∧ regionOf (operandAddr start 0x00) = .indf := by
  decide

/-- The three clauses: `d` = 0, a destination that is not PCL, and PCL. -/
theorem witness_CountAndSkipInstructions :
    State.memRead { start with ram := [(0x020, 0x01#8)] } (operandAddr start 0x20) = .ok 0x01#8 ∧
    regionOf (operandAddr start 0x20) ≠ .pcl ∧ regionOf (operandAddr start 0x02) = .pcl ∧
    start.memRead (operandAddr start 0x02) = .ok 0x01#8 := by decide

theorem witness_BitWriteInstructions :
    start.memRead (operandAddr start 0x7F) = .ok 0x00#8 ∧ (7 : Nat) < 8 := by decide

theorem witness_BitTestInstructions :
    start.memRead (operandAddr start 0x03) = .ok 0x18#8 ∧ (0x18#8).getLsbD 7 = false ∧
    (0x18#8).getLsbD 3 = true := by decide

/-- The last literal with the last value of the don't-care bit. -/
theorem witness_ArithmeticLiterals : (255 : Nat) < 256 ∧ decode 0x3FFF#14 = .ok (.addlw 255) := by
  refine ⟨?_, ?_⟩ <;> decide

theorem witness_LogicLiterals : (255 : Nat) < 256 ∧ decode 0x3AFF#14 = .ok (.xorlw 255) := by
  refine ⟨?_, ?_⟩ <;> decide

theorem witness_MovlwLoadsW : (255 : Nat) < 256 ∧ decode 0x33FF#14 = .ok (.movlw 255) := by
  refine ⟨?_, ?_⟩ <;> decide

theorem witness_GotoJumps : (2047 : Nat) < 2048 ∧ decode 0x2FFF#14 = .ok (.goto 2047) := by
  refine ⟨?_, ?_⟩ <;> decide

/-- The last values of the don't-care bits of CLRW and NOP. -/
theorem witness_ClrwClearsW : (127 : Nat) < 128 ∧ decode 0x017F#14 = .ok .clrw := by
  refine ⟨?_, ?_⟩ <;> decide

theorem witness_NopOnlyAdvances : (3 : Nat) < 4 ∧ decode 0x0060#14 = .ok .nop := by
  refine ⟨?_, ?_⟩ <;> decide

/-- Seven entries complete, eight do not. -/
theorem witness_CallPushesAndJumps :
    fullStack.tail.length < 8 ∧ 8 ≤ fullStack.length ∧
    faultOf (exec (.call 2047) { start with stack := fullStack.tail }) = none ∧
    faultOf (exec (.call 2047) { start with stack := fullStack }) = some .stackOverflow := by
  decide

theorem witness_ReturnsPopThePc :
    State.stack { start with stack := [0x1ABC#13] } = [0x1ABC#13] ∧ start.stack = [] := by decide

theorem witness_RetfiePopsAndSetsGie :
    State.stack { start with stack := fullStack } = 0x0008#13 :: fullStack.tail ∧
    start.stack = [] := by decide

/-- Both branches of SLEEP. -/
theorem witness_SleepStopsTheCore :
    start.input.irqPending = false ∧
    (State.input { start with inputs := [request] }).irqPending = true := by decide

theorem witness_PeripheralOperandsRefused :
    (Instr.btfss 0x01 0).wellFormed = true ∧ fileOperandOf (.btfss 0x01 0) = some 0x01 ∧
    regionOf (operandAddr start 0x01) = .peripheral ∧
    regionOf (operandAddr { start with fsr := 0x9F#8 } 0x00) = .peripheral := by decide

theorem witness_MalformedOperandsRefused : (Instr.bcf 0x20 8).wellFormed = false := by decide

/-- A store beside STATUS and an instruction that lists no flag. -/
theorem witness_UnlistedFlagsKept :
    storedRegion (.movwf 0x20) start ≠ some .status ∧ listsZFlag (.movwf 0x20) = false ∧
    listsDCFlag (.rlf 0x20 1) = false ∧ listsCFlag (.andwf 0x20 1) = false ∧
    seen (exec (.movwf 0x20) start) = some (0x0101#13, 0x00#8, 0x18#8, []) := by decide

/-- A write to STATUS completes and is no CLRWDT or SLEEP. -/
theorem witness_PowerBitsKept :
    seen (exec (.movwf 0x03) start) = some (0x0101#13, 0x00#8, 0x18#8, []) ∧
    Instr.movwf 0x03 ≠ .clrwdt ∧ Instr.movwf 0x03 ≠ .sleep := by decide

/-- An instruction that meets every clause: NOP writes none of the registers named. -/
theorem witness_RegisterFrame :
    seen (exec .nop start) = some (0x0101#13, 0x00#8, 0x18#8, []) ∧ writesW .nop = false ∧
    storedRegion .nop start = none ∧ (∀ k, Instr.nop ≠ .call k) ∧ (∀ k, Instr.nop ≠ .retlw k) ∧
    Instr.nop ≠ .ret ∧ Instr.nop ≠ .retfie ∧ Instr.nop ≠ .clrwdt ∧ Instr.nop ≠ .sleep := by
  refine ⟨?_, ?_, ?_, ?_, ?_, ?_, ?_, ?_, ?_⟩ <;> first | decide | (intro k; nofun)

/-- A store to one cell, and another cell. -/
theorem witness_RamFrame :
    start.ram.wf ∧ storedRegion (.bsf 0x20 7) start = some (.ram 0x20) ∧
    storedRegion (.bsf 0x20 7) start ≠ some (.ram 0x21) ∧
    seen (exec (.bsf 0x20 7) start) = some (0x0101#13, 0x00#8, 0x18#8, [(0x20, 0x80#8)]) := by
  decide

/-- A skip, a write to PCL, and an instruction of the last clause complete. -/
theorem witness_WaysOfThePc :
    seen (exec (.btfsc 0x20 0) start) = some (0x0102#13, 0x00#8, 0x18#8, []) ∧
    seen (exec (.movwf 0x02) { start with pclath := 0x1F#5 }) =
      some (0x1F00#13, 0x00#8, 0x18#8, []) ∧
    storedRegion (.movwf 0x02) start = some .pcl ∧
    seen (exec (.goto 2047) start) = some (0x07FF#13, 0x00#8, 0x18#8, []) ∧
    seen (exec .ret { start with stack := [0x0006#13] }) =
      some (0x0006#13, 0x00#8, 0x18#8, []) := by
  refine ⟨?_, ?_, ?_, ?_, ?_⟩ <;> decide

/-- Directly and through INDF. -/
theorem witness_RotateBackRestores :
    start.ram.wf ∧ regionOf (operandAddr start 0x20) = .ram 0x20 ∧
    regionOf (operandAddr { start with fsr := 0xF3#8 } 0x00) = .ram 0x073 := by decide

/-- Both clauses: seven entries and eight. -/
theorem witness_InterruptEntry :
    NoReset { start with intcon := 0x80#8, inputs := [request] } ∧
    State.gie { start with intcon := 0x80#8 } = true ∧
    (State.input { start with inputs := [request] }).irqPending = true ∧
    fullStack.tail.length < 8 ∧ 8 ≤ fullStack.length := by
  unfold NoReset; decide

/-- Masked, with a request pending. -/
theorem witness_MaskedInterruptNotTaken :
    NoReset { start with intcon := 0x7F#8, inputs := [request] } ∧
    State.gie { start with intcon := 0x7F#8 } = false := by
  unfold NoReset; decide

theorem witness_RetfieUndoesEntry :
    State.boundaryEvent { start with intcon := 0x80#8, inputs := [request] } = .interruptEntry ∧
    seen (step { start with intcon := 0x80#8, inputs := [request] }) =
      some (0x0004#13, 0x00#8, 0x18#8, []) := by decide

/-- The three clauses; the last awake and asleep. -/
theorem witness_BoundaryPriority :
    State.boundaryEvent { start with inputs := [reset3], wdte := true } = .externalReset ∧
    State.boundaryEvent { start with inputs := [timeOut], asleep := true } = .interruptWake ∧
    State.boundaryEvent { start with inputs := [timeOut], wdte := true } = .watchdogReset ∧
    State.boundaryEvent { start with inputs := [timeOut], wdte := true, asleep := true } =
      .watchdogWake := by decide

/-- The hypotheses of the two time-out statements, awake and asleep. -/
theorem witness_WatchdogResetWhileRunning :
    timeOut.mclr = false ∧ timeOut.wdtTimeout = true ∧
    State.input { start with wdte := true, inputs := [timeOut] } = timeOut ∧
    State.asleep { start with wdte := true, inputs := [timeOut] } = false := by decide

theorem witness_WatchdogWakesSleepingCore :
    State.input { start with wdte := true, asleep := true, inputs := [timeOut] } = timeOut ∧
    State.asleep { start with wdte := true, asleep := true, inputs := [timeOut] } = true ∧
    NoReset { start with wdte := true, wokeUp := true } := by
  unfold NoReset; refine ⟨?_, ?_, ?_⟩ <;> decide

theorem witness_InterruptWakesThenInstruction :
    NoReset { start with asleep := true, inputs := [request] } ∧
    NoReset { start with wokeUp := true, intcon := 0x80#8 } ∧
    (State.input { start with asleep := true, inputs := [request] }).irqPending = true := by
  unfold NoReset; decide

/-- Nothing left, and a sample that wakes nothing. -/
theorem witness_SleepingCoreKeepsState :
    NoReset { start with asleep := true } ∧ start.wdte = false ∧ start.inputs = [] ∧
    NoReset { start with asleep := true, wdte := true } ∧
    NoReset { start with asleep := true, wdte := true, inputs := [{ wdtCounts := 3 }] } ∧
    (State.input { start with asleep := true, inputs := [{ wdtCounts := 3 }] }).irqPending =
      false := by
  unfold NoReset; decide

theorem witness_ExternalResetValues :
    (State.input { start with inputs := [reset3] }).mclr = true ∧
    State.asleep { start with asleep := true, inputs := [reset3] } = true := by decide

/-- A step of each kind that the clauses name. -/
theorem witness_EveryStepUsesOneSample :
    State.boundaryEvent { start with wdte := true, asleep := true, inputs := [timeOut] } =
      .watchdogWake ∧
    seenSleep (step { start with asleep := true, inputs := [request] }) = some (false, true, 0, 0) ∧
    seenSleep (step (holding 0x0000#14)) = some (false, false, 0, 0) ∧
    seenSleep (step { start with inputs := [reset3] }) = some (false, false, 0, 0) := by
  refine ⟨?_, ?_, ?_, ?_⟩ <;> decide

/-- Both kinds of reset step. -/
theorem witness_EveryResetStartsAtZero :
    State.boundaryEvent { start with inputs := [reset3] } = .externalReset ∧
    State.boundaryEvent { start with inputs := [timeOut], wdte := true } = .watchdogReset ∧
    seen (step { start with inputs := [reset3] }) = some (0x0000#13, 0x00#8, 0x18#8, []) := by
  decide

/-- A state of the invariant with a listed memory cell, asleep, that has a step. -/
theorem witness_StepKeepsInv :
    State.Inv { start with asleep := true, status := 0x10#8, ram := [(0x020, 0x77#8)],
                           stack := fullStack, inputs := [request] } ∧
    seenSleep (step { start with asleep := true, status := 0x10#8, ram := [(0x020, 0x77#8)],
                                 stack := fullStack, inputs := [request] }) =
      some (false, true, 0, 0) := by
  refine ⟨⟨?_, ?_, ?_, ?_, ?_, ?_⟩, ?_⟩ <;> decide

/-- Two steps of a run. -/
theorem witness_RunKeepsInvAndProgram :
    State.Inv { start with prog := [(0x100, 0x3E01#14), (0x101, 0x00A0#14)] } ∧
    seen (core.run 2 { start with prog := [(0x100, 0x3E01#14), (0x101, 0x00A0#14)] }) =
      some (0x0102#13, 0x01#8, 0x18#8, [(0x020, 0x01#8)]) := by
  refine ⟨⟨?_, ?_, ?_, ?_, ?_, ?_⟩, ?_⟩ <;> decide

theorem witness_AssembledInstructionsAreWellFormed :
    Asm.assemble [] [] 0 " movlw 255\n goto 2047".toList = .ok [.movlw 255, .goto 2047] := by
  decide

/-- The image that fills the first and the last address, and one image for each ground of refusal at
its boundary. -/
theorem witness_ImageIsLoadedWholeOrRefused :
    ((∀ c ∈ [(0x1FFF, 0x3FFF), (0x0000, 0x0000)], c.1 < 8192 ∧ c.2 < 16384) ∧
      ([(0x1FFF, 0x3FFF), (0x0000, 0x0000)].map (·.1)).Nodup ∧
      (start.loadProgram [(0x1FFF, 0x3FFF), (0x0000, 0x0000)]) =
        .ok { start with prog := [(0x0000, 0x0000#14), (0x1FFF, 0x3FFF#14)] }) ∧
    (∃ c ∈ [(0x0000, 0x4000)], 16384 ≤ c.2) ∧ (∃ c ∈ [(0x2000, 0x0000)], 8192 ≤ c.1) ∧
    ¬([(0x0010, 0x0000), (0x0010, 0x0064)].map (·.1)).Nodup ∧
    (start.loadProgram [(0x2000, 0x0000)]) = .error (.outsideProgramMemory 0x2000) ∧
    (start.loadProgram [(0x0010, 0x0000), (0x0010, 0x0064)]) = .error (.addressTwice 0x0010) := by
  refine ⟨?_, ?_, ?_, ?_, ?_, ?_⟩ <;> decide

end Sys2Proof.Tests
end

section
/-! SUPPORT and proofs for spec/00_scope.md R14 and R15. Both rules say one thing at two widths: the
top bit of a sum of widened words is its carry. It is shown for every width; the carry is that at
width 8, the digit carry that at width 4. -/

namespace Sys2Proof.Machine

/-- The low nibble of a byte, as a number. -/
theorem lowNibble_toNat (a : Byte) : (a.extractLsb' 0 4).toNat = a.toNat % 16 := by
  simp [BitVec.extractLsb'_toNat]

/-- The top bit of a word is the test against its own weight. -/
theorem getLsbD_top_iff {w : Nat} (x : BitVec (w + 1)) :
    x.getLsbD w = true ↔ 2 ^ w ≤ x.toNat := by
  have hmsb : x.msb = x.getLsbD w := x.msb_eq_getLsbD_last
  rw [← hmsb, BitVec.msb_eq_decide, decide_eq_true_iff, Nat.add_sub_cancel]

/-- One more bit holds the whole sum. -/
theorem toNat_widenedSum {w : Nat} (a b : BitVec w) :
    (a.setWidth (w + 1) + b.setWidth (w + 1)).toNat = a.toNat + b.toNat := by
  have ha := a.isLt
  have hb := b.isLt
  rw [BitVec.toNat_add, BitVec.toNat_setWidth_of_le w.le_succ,
    BitVec.toNat_setWidth_of_le w.le_succ, Nat.mod_eq_of_lt (by rw [Nat.pow_succ]; omega)]

/-- One more bit holds `a + NOT b + 1`, which is `a - b` above an offset of `2 ^ w`. -/
theorem toNat_widenedDifference {w : Nat} (a b : BitVec w) :
    (a.setWidth (w + 1) + (~~~b).setWidth (w + 1) + 1#(w + 1)).toNat
      = a.toNat + 2 ^ w - b.toNat := by
  have ha := a.isLt
  have hb := b.isLt
  have hone : (1#(w + 1)).toNat = 1 := Nat.mod_eq_of_lt (Nat.one_lt_two_pow w.succ_ne_zero)
  rw [BitVec.toNat_add, toNat_widenedSum, BitVec.toNat_not, hone,
    Nat.mod_eq_of_lt (by rw [Nat.pow_succ]; omega)]
  omega

/-- The carry out of `a + b`. -/
theorem widenedSum_carry_iff {w : Nat} (a b : BitVec w) :
    (a.setWidth (w + 1) + b.setWidth (w + 1)).getLsbD w = true ↔ 2 ^ w ≤ a.toNat + b.toNat := by
  rw [getLsbD_top_iff, toNat_widenedSum]

/-- The carry out of `a + NOT b + 1` is "no borrow". -/
theorem widenedDifference_carry_iff {w : Nat} (a b : BitVec w) :
    (a.setWidth (w + 1) + (~~~b).setWidth (w + 1) + 1#(w + 1)).getLsbD w = true
      ↔ b.toNat ≤ a.toNat := by
  have hb := b.isLt
  rw [getLsbD_top_iff, toNat_widenedDifference]
  omega

/-- R14: the low eight bits of the nine-bit sum are the sum of bytes. -/
@[simp] theorem add8_value (a b : Byte) : (add8 a b).value = a + b := by
  simp only [add8, ← BitVec.setWidth_eq_extractLsb' (show 8 ≤ 9 by decide)]
  rw [BitVec.setWidth_add _ _ (by decide)]
  simp

/-- R14: the carry of a sum. -/
theorem add8_carry_iff (a b : Byte) :
    (add8 a b).carry = true ↔ 256 ≤ a.toNat + b.toNat :=
  widenedSum_carry_iff a b

/-- R14: the digit carry of a sum is the carry of its low nibbles. -/
theorem add8_digitCarry_iff (a b : Byte) :
    (add8 a b).digitCarry = true ↔ 16 ≤ a.toNat % 16 + b.toNat % 16 := by
  rw [← lowNibble_toNat a, ← lowNibble_toNat b]
  exact widenedSum_carry_iff (a.extractLsb' 0 4) (b.extractLsb' 0 4)

/-- R15: the low eight bits of `a + NOT b + 1` are the difference of bytes. -/
@[simp] theorem sub8_value (a b : Byte) : (sub8 a b).value = a - b := by
  simp only [sub8, ← BitVec.setWidth_eq_extractLsb' (show 8 ≤ 9 by decide)]
  rw [BitVec.setWidth_add _ _ (by decide), BitVec.setWidth_add _ _ (by decide),
    BitVec.sub_eq_add_neg, BitVec.neg_eq_not_add, BitVec.add_assoc]
  simp

/-- R15: the carry of a difference is "no borrow". -/
theorem sub8_carry_iff (a b : Byte) : (sub8 a b).carry = true ↔ b.toNat ≤ a.toNat :=
  widenedDifference_carry_iff a b

/-- R15: the digit carry of a difference is "no borrow" between the low nibbles. -/
theorem sub8_digitCarry_iff (a b : Byte) :
    (sub8 a b).digitCarry = true ↔ b.toNat % 16 ≤ a.toNat % 16 := by
  have hnot : (~~~b).extractLsb' 0 4 = ~~~b.extractLsb' 0 4 :=
    BitVec.extractLsb'_not_of_lt (by decide)
  rw [← lowNibble_toNat a, ← lowNibble_toNat b, sub8, hnot]
  exact widenedDifference_carry_iff (a.extractLsb' 0 4) (b.extractLsb' 0 4)

end Sys2Proof.Machine

namespace Sys2Proof.Proofs

open Sys2Proof.Machine

/-- Settles O12: value, carry and digit carry of `add8`, each by its own law. -/
theorem additionCarries : Obligations.AdditionCarries := by
  intro a b
  refine ⟨?value, add8_carry_iff a b, add8_digitCarry_iff a b⟩
  case value => rw [add8_value, BitVec.toNat_add]

/-- Settles O13: value, carry and digit carry of `sub8`, each by its own law. -/
theorem subtractionBorrows : Obligations.SubtractionBorrows := by
  intro a b
  refine ⟨?value, sub8_carry_iff a b, sub8_digitCarry_iff a b⟩
  case value =>
    have hb := b.isLt
    rw [sub8_value, BitVec.toNat_sub]
    omega

end Sys2Proof.Proofs
end

section
/-! SUPPORT and proofs for spec/20_memory.md: the fetch (R60), the data map (R66, R67), and the
refusal of an operand that is a peripheral register (R68). -/

namespace Sys2Proof.Machine

open Sys2Proof.Claims

/-! ### Fetch and the boundary that runs an instruction -/

/-- R60: the fetch of a placed word is its decoding. -/
theorem fetch_of_lookup {s : State} {w : CodeWord} {i : Instr}
    (hw : s.prog.lookup s.pc.toNat = some w) (hi : decode w = .ok i) : s.fetch = .ok i := by
  simp [State.fetch, hw, hi]

/-- R60: the fetch where nothing is placed. -/
theorem fetch_of_lookup_none {s : State} (h : s.prog.lookup s.pc.toNat = none) :
    s.fetch = .error (.noInstructionAt s.pc) := by
  simp [State.fetch, h]

/-- R205, R210, R220: the boundary's event is the instruction at the pc. -/
theorem boundaryEvent_of_runsInstruction {s : State} (h : RunsInstruction s) :
    s.boundaryEvent = .instruction := by
  obtain ⟨hmclr, hwdt, hawake, hirq⟩ := h
  have htimeout : (s.wdte && s.input.wdtTimeout) = false := by simpa using hwdt
  have hentry : (s.gie && s.input.irqPending && !s.wokeUp) = false := by simpa using hirq
  simp [State.boundaryEvent, hmclr, htimeout, hawake, hentry]

/-- There the step is the run of the instruction. -/
theorem step_of_runsInstruction {s : State} (h : RunsInstruction s) :
    step s = runInstruction s := by
  simp [step, boundaryEvent_of_runsInstruction h]

/-- A refused fetch refuses the run. -/
theorem runInstruction_of_fetch_error {s : State} {r : Refusal} (h : s.fetch = .error r) :
    runInstruction s = .refused r := by
  simp [runInstruction, h]

/-! ### The data map -/

/-- `a[6:0]` as a number. -/
theorem lowAddr_eq_iff (a : DataAddr) (c : FileAddr) :
    lowAddr a = c ↔ a.toNat % 128 = c.toNat := by
  rw [← BitVec.toNat_inj, lowAddr, BitVec.extractLsb'_toNat, Nat.shiftRight_zero]

theorem inRows_iff (lo hi : Nat) (a : DataAddr) :
    inRows lo hi a = true ↔ lo ≤ a.toNat ∧ a.toNat ≤ hi := by
  simp [inRows]

/-- R66: the mirrors are the common row in banks 1 to 3. -/
theorem isCommonMirror_iff (a : DataAddr) :
    isCommonMirror a = true ↔ CommonRamAddr a ∧ 0x080 ≤ a.toNat := by
  have ha := a.isLt
  simp only [isCommonMirror, Bool.or_eq_true, inRows_iff, CommonRamAddr]
  omega

/-- R66: general-purpose RAM is the banks' own rows and the common row. -/
theorem isGPR_iff (a : DataAddr) : isGPR a = true ↔ OwnRamCell a ∨ CommonRamAddr a := by
  have ha := a.isLt
  simp only [isGPR, Bool.or_eq_true, inRows_iff, isCommonMirror_iff, OwnRamCell, CommonRamAddr]
  omega

/-- R66: the peripheral rows of the four banks, by bank-free address. -/
theorem isPeripheral_iff (a : DataAddr) : isPeripheral a = true ↔ PeripheralAddr a := by
  have ha := a.isLt
  simp only [isPeripheral, Bool.or_eq_true, inRows_iff, PeripheralAddr]
  omega

/-- R67: a bank's own cell is its address. -/
theorem canon_of_own {a : DataAddr} (h : OwnRamCell a) : canon a = a.toNat := by
  have hmirror : ¬ isCommonMirror a = true := by
    simp only [isCommonMirror_iff, OwnRamCell, CommonRamAddr] at *
    omega
  rw [canon, if_neg hmirror]

/-- R67: the common row's cell is that of bank 0, in bank 0 too. -/
theorem canon_of_common {a : DataAddr} (h : CommonRamAddr a) :
    canon a = 0x070 + a.toNat % 16 := by
  unfold canon
  split
  · rfl
  · next hmirror =>
    simp only [isCommonMirror_iff, CommonRamAddr] at *
    omega

/-- The six core registers' addresses, in every bank (R66). -/
def CoreRegisterAddr (a : DataAddr) : Prop :=
  a.toNat % 128 = 0x00 ∨ a.toNat % 128 = 0x02 ∨ a.toNat % 128 = 0x03 ∨ a.toNat % 128 = 0x04 ∨
    a.toNat % 128 = 0x0A ∨ a.toNat % 128 = 0x0B

/-- Beside the core registers, an address is classed by the rows of R66. -/
theorem regionOf_of_not_coreRegister {a : DataAddr} (h : ¬ CoreRegisterAddr a) :
    regionOf a = if isGPR a then .ram (canon a)
      else if isPeripheral a then .peripheral else .unimplemented := by
  simp only [CoreRegisterAddr, not_or] at h
  obtain ⟨hindf, hpcl, hstatus, hfsr, hpclath, hintcon⟩ := h
  simp [regionOf, lowAddr_eq_iff, Config.addrINDF, Config.addrPCL, Config.addrSTATUS,
    Config.addrFSR, Config.addrPCLATH, Config.addrINTCON, *]

/-- The table of R66: a row the address stands in, and what the row names. -/
inductive DataRow (a : DataAddr) : Region → Prop where
  | indf (h : a.toNat % 128 = 0x00) : DataRow a .indf
  | pcl (h : a.toNat % 128 = 0x02) : DataRow a .pcl
  | status (h : a.toNat % 128 = 0x03) : DataRow a .status
  | fsr (h : a.toNat % 128 = 0x04) : DataRow a .fsr
  | pclath (h : a.toNat % 128 = 0x0A) : DataRow a .pclath
  | intcon (h : a.toNat % 128 = 0x0B) : DataRow a .intcon
  | own (h : OwnRamCell a) : DataRow a (.ram a.toNat)
  | common (h : CommonRamAddr a) : DataRow a (.ram (0x070 + a.toNat % 16))
  | peripheral (h : PeripheralAddr a) : DataRow a .peripheral

/-- The rows leave no address out. -/
theorem exists_dataRow (a : DataAddr) : ∃ r, DataRow a r := by
  have hrows : CoreRegisterAddr a ∨ OwnRamCell a ∨ CommonRamAddr a ∨ PeripheralAddr a := by
    have ha := a.isLt
    unfold CoreRegisterAddr OwnRamCell CommonRamAddr PeripheralAddr
    omega
  obtain (h | h | h | h | h | h) | h | h | h := hrows
  · exact ⟨_, .indf h⟩
  · exact ⟨_, .pcl h⟩
  · exact ⟨_, .status h⟩
  · exact ⟨_, .fsr h⟩
  · exact ⟨_, .pclath h⟩
  · exact ⟨_, .intcon h⟩
  · exact ⟨_, .own h⟩
  · exact ⟨_, .common h⟩
  · exact ⟨_, .peripheral h⟩

/-- The model names what the row names. -/
theorem regionOf_of_dataRow {a : DataAddr} {r : Region} (h : DataRow a r) : regionOf a = r := by
  cases h with
  | indf h | pcl h | status h | fsr h | pclath h | intcon h =>
    simp [regionOf, lowAddr_eq_iff, h, Config.addrINDF, Config.addrPCL, Config.addrSTATUS,
      Config.addrFSR, Config.addrPCLATH, Config.addrINTCON]
  | own h =>
    have hcore : ¬ CoreRegisterAddr a := by
      unfold CoreRegisterAddr OwnRamCell at *
      omega
    rw [regionOf_of_not_coreRegister hcore, if_pos ((isGPR_iff a).2 (.inl h)), canon_of_own h]
  | common h =>
    have hcore : ¬ CoreRegisterAddr a := by
      unfold CoreRegisterAddr CommonRamAddr at *
      omega
    rw [regionOf_of_not_coreRegister hcore, if_pos ((isGPR_iff a).2 (.inr h)), canon_of_common h]
  | peripheral h =>
    have hcore : ¬ CoreRegisterAddr a := by
      unfold CoreRegisterAddr PeripheralAddr at *
      omega
    have hgpr : ¬ isGPR a = true := by
      rw [isGPR_iff]
      unfold OwnRamCell CommonRamAddr PeripheralAddr at *
      omega
    rw [regionOf_of_not_coreRegister hcore, if_neg hgpr, if_pos ((isPeripheral_iff a).2 h)]

/-- What an address names is what its row of R66 names. -/
theorem regionOf_eq_iff {a : DataAddr} {r : Region} : regionOf a = r ↔ DataRow a r := by
  refine ⟨?_, regionOf_of_dataRow⟩
  rintro rfl
  obtain ⟨r, hr⟩ := exists_dataRow a
  rwa [regionOf_of_dataRow hr]

/-- R66, R67: the addresses of a storage cell. -/
theorem regionOf_eq_ram_iff {a : DataAddr} {n : Nat} :
    regionOf a = .ram n ↔
      (OwnRamCell a ∧ n = a.toNat) ∨ (CommonRamAddr a ∧ n = 0x070 + a.toNat % 16) := by
  rw [regionOf_eq_iff]
  constructor
  · rintro (_ | _ | _ | _ | _ | _ | h | h | _)
    · exact .inl ⟨h, rfl⟩
    · exact .inr ⟨h, rfl⟩
  · rintro (⟨h, rfl⟩ | ⟨h, rfl⟩)
    · exact .own h
    · exact .common h

/-! ### The storage cells -/

/-- R66: the four runs of storage cells, the common row joined to bank 0's own. -/
theorem isStorageCell_iff (n : Nat) :
    isStorageCell n = true ↔ (0x020 ≤ n ∧ n ≤ 0x07F) ∨ (0x0A0 ≤ n ∧ n ≤ 0x0EF) ∨
      (0x110 ≤ n ∧ n ≤ 0x16F) ∨ (0x190 ≤ n ∧ n ≤ 0x1EF) := by
  simp [isStorageCell, or_assoc]

/-- R66, R67: the storage cells are what the addresses of RAM name. -/
theorem isStorageCell_iff_exists_regionOf (n : Nat) :
    isStorageCell n = true ↔ ∃ a : DataAddr, regionOf a = .ram n := by
  simp only [isStorageCell_iff, regionOf_eq_ram_iff, OwnRamCell, CommonRamAddr]
  constructor
  · intro hn
    have hlt : n < 2 ^ 9 := by omega
    refine ⟨BitVec.ofNatLT n hlt, ?_⟩
    rw [BitVec.toNat_ofNatLT]
    omega
  · rintro ⟨a, ha⟩
    have hlt := a.isLt
    omega

/-- R66: 96 + 80 + 96 + 96 storage cells. -/
theorem length_storageCells :
    ((List.range 512).filter (fun n => isStorageCell n)).length = 368 := by
  have hruns : (Finset.range 512).filter (fun n => isStorageCell n = true) =
      Finset.Icc 0x020 0x07F ∪ (Finset.Icc 0x0A0 0x0EF ∪
        (Finset.Icc 0x110 0x16F ∪ Finset.Icc 0x190 0x1EF)) := by
    ext n
    simp only [Finset.mem_filter, Finset.mem_range, isStorageCell_iff, Finset.mem_union,
      Finset.mem_Icc]
    omega
  calc ((List.range 512).filter (fun n => isStorageCell n)).length
      = ((Finset.range 512).filter (fun n => isStorageCell n = true)).card := by
        rw [← Nat.count_eq_card_filter_range, Nat.count, List.countP_eq_length_filter]
        simp only [Bool.decide_eq_true]
    _ = 96 + (80 + (96 + 96)) := by
        rw [hruns, Finset.card_union_of_disjoint, Finset.card_union_of_disjoint,
          Finset.card_union_of_disjoint]
        · simp only [Nat.card_Icc]
        all_goals
          simp only [Finset.disjoint_left, Finset.mem_union, Finset.mem_Icc]
          omega

/-! ### Operands that are peripheral registers -/

theorem destOperand_of_lt {d : Nat} (h : d < 2) : ∃ dst, destOperand d = some dst := by
  match d, h with
  | 0, _ => exact ⟨.w, rfl⟩
  | 1, _ => exact ⟨.file, rfl⟩

section PeripheralOperand

variable {s : State} {f : Nat} (hf : f < 128)
  (hp : regionOf (s.resolve (BitVec.ofNat 7 f)) = .peripheral)
include hf hp

/-- R68: refused at the read. -/
theorem fileOp_peripheral {d : Nat} (hd : d < 2) (alu : Byte → AluOut) :
    fileOp f d alu s = .refused (.peripheralAccess (s.resolve (BitVec.ofNat 7 f))) := by
  obtain ⟨dst, hdst⟩ := destOperand_of_lt hd
  simp [fileOp, fileOperand_of_lt hf, hdst, memRead_peripheral s hp]

/-- R68: refused at the write. -/
theorem fileStore_peripheral (out : AluOut) :
    fileStore f out s = .refused (.peripheralAccess (s.resolve (BitVec.ofNat 7 f))) := by
  simp [fileStore, fileOperand_of_lt hf, memWrite_peripheral s.advance _ _ hp, orRefuse]

/-- R68: refused at the read; the operand is not PCL. -/
theorem fileSkipOp_peripheral {d : Nat} (hd : d < 2) (g : Byte → Byte) :
    fileSkipOp f d g s = .refused (.peripheralAccess (s.resolve (BitVec.ofNat 7 f))) := by
  obtain ⟨dst, hdst⟩ := destOperand_of_lt hd
  simp [fileSkipOp, fileOperand_of_lt hf, hdst, hp, memRead_peripheral s hp]

/-- R68: refused at the read. -/
theorem bitWriteOp_peripheral {b : Nat} (hb : b < 8) (x : Bool) :
    bitWriteOp f b x s = .refused (.peripheralAccess (s.resolve (BitVec.ofNat 7 f))) := by
  simp [bitWriteOp, fileOperand_of_lt hf, bitOperand_of_lt hb, memRead_peripheral s hp]

/-- R68: refused at the read. -/
theorem bitSkipOp_peripheral {b : Nat} (hb : b < 8) (x : Bool) :
    bitSkipOp f b x s = .refused (.peripheralAccess (s.resolve (BitVec.ofNat 7 f))) := by
  simp [bitSkipOp, fileOperand_of_lt hf, bitOperand_of_lt hb, memRead_peripheral s hp]

end PeripheralOperand

/-- R110: the ranges of `f` and `d`. -/
theorem byteOperandsInRange_iff {f d : Nat} :
    (fileInRange f && destInRange d) = true ↔ f < 128 ∧ d < 2 := by
  simp [fileInRange, destInRange]

/-- R110: the ranges of `f` and `b`. -/
theorem bitOperandsInRange_iff {f b : Nat} :
    (fileInRange f && bitInRange b) = true ↔ f < 128 ∧ b < 8 := by
  simp [fileInRange, bitInRange]

/-- R110: the range of `f`. -/
theorem fileInRange_iff {f : Nat} : fileInRange f = true ↔ f < 128 := by
  simp [fileInRange]

end Sys2Proof.Machine

namespace Sys2Proof.Proofs

open Sys2Proof.Machine Sys2Proof.Claims

/-- Settles O36: each instruction with a file operand is one of five shapes, and each shape is
refused at its first access to the register. -/
theorem peripheralOperandsRefused : Obligations.PeripheralOperandsRefused := by
  intro i s f hwf hfile hp
  cases i with
  | addwf g d | andwf g d | comf g d | decf g d | incf g d | iorwf g d | movf g d | rlf g d
  | rrf g d | subwf g d | swapf g d | xorwf g d =>
    obtain rfl : g = f := Option.some.inj hfile
    obtain ⟨hf, hd⟩ := byteOperandsInRange_iff.1 hwf
    exact fileOp_peripheral hf hp hd _
  | decfsz g d | incfsz g d =>
    obtain rfl : g = f := Option.some.inj hfile
    obtain ⟨hf, hd⟩ := byteOperandsInRange_iff.1 hwf
    exact fileSkipOp_peripheral hf hp hd _
  | clrf g | movwf g =>
    obtain rfl : g = f := Option.some.inj hfile
    exact fileStore_peripheral (fileInRange_iff.1 hwf) hp _
  | bcf g b | bsf g b =>
    obtain rfl : g = f := Option.some.inj hfile
    obtain ⟨hf, hb⟩ := bitOperandsInRange_iff.1 hwf
    exact bitWriteOp_peripheral hf hp hb _
  | btfsc g b | btfss g b =>
    obtain rfl : g = f := Option.some.inj hfile
    obtain ⟨hf, hb⟩ := bitOperandsInRange_iff.1 hwf
    exact bitSkipOp_peripheral hf hp hb _
  | clrw | nop | addlw | andlw | call | clrwdt | goto | iorlw | movlw | retfie | retlw | ret
  | sleep | sublw | xorlw => cases hfile

/-- Settles O6: both answers of the fetch; the step at a boundary that runs an instruction passes on
the refusal. -/
theorem fetchReadsTheProgram : Obligations.FetchReadsTheProgram := by
  intro s
  refine ⟨fun w i hw hi => fetch_of_lookup hw hi, fun hnone => ?_⟩
  have hfetch := fetch_of_lookup_none hnone
  refine ⟨hfetch, fun hrun => ?_⟩
  rw [step_of_runsInstruction hrun, runInstruction_of_fetch_error hfetch]

/-- Settles O8: each clause reads one row of the table off `regionOf_eq_iff`. -/
theorem dataMap : Obligations.DataMap := by
  refine ⟨fun a => ?_, length_storageCells, isStorageCell_iff_exists_regionOf⟩
  simp only [regionOf_eq_iff, ne_eq]
  exact ⟨⟨.indf, fun (.indf h) => h⟩, ⟨.pcl, fun (.pcl h) => h⟩, ⟨.status, fun (.status h) => h⟩,
    ⟨.fsr, fun (.fsr h) => h⟩, ⟨.pclath, fun (.pclath h) => h⟩, ⟨.intcon, fun (.intcon h) => h⟩,
    .own, .common, ⟨.peripheral, fun (.peripheral h) => h⟩, nofun⟩

end Sys2Proof.Proofs
end

section
/-! SUPPORT and proofs for spec/30_encoding.md: the round trip of decode and encode (R102) and the
words that spell no instruction (R100). A word spells at most one row of the opcode map (R101), so
the decoding of a word follows from one row that it spells and the fields that row reads. -/

namespace Sys2Proof

/-! ### One row decides the decoding -/

/-- R98: a word spells a row when its bits under the mask are the pattern. -/
theorem matchesWord_iff {r : OpcodeRow} {w : CodeWord} :
    r.matchesWord w = true ↔ w &&& r.mask = r.pattern := by
  rw [OpcodeRow.matchesWord, beq_iff_eq]

/-- Two rows whose patterns differ in a bit that both masks read. -/
def OpcodeRow.Apart (x y : OpcodeRow) : Prop :=
  x.pattern &&& (x.mask &&& y.mask) ≠ y.pattern &&& (x.mask &&& y.mask)

/-- R101: no word spells two such rows. -/
theorem OpcodeRow.Apart.not_matchesWord {x y : OpcodeRow} {w : CodeWord} (h : x.Apart y)
    (hy : y.matchesWord w = true) : ¬ x.matchesWord w = true := by
  intro hx
  rw [matchesWord_iff] at hx hy
  have hread {m n p : CodeWord} (hm : w &&& m = p) : p &&& (m &&& n) = w &&& (m &&& n) := by
    rw [← hm, BitVec.and_assoc, ← BitVec.and_assoc m, BitVec.and_self]
  exact h ((hread hx).trans (by rw [BitVec.and_comm x.mask, hread hy]))

/-- R101: the rows of the map are pairwise disjoint. -/
theorem opcodeTable_pairwise_apart : opcodeTable.Pairwise OpcodeRow.Apart := by
  unfold OpcodeRow.Apart
  decide

/-- R98: a row's pattern lies inside its mask. -/
theorem pattern_and_mask : ∀ r ∈ opcodeTable, r.pattern &&& r.mask = r.pattern := by
  decide

/-- Among rows that are pairwise apart the search of `decode` finds the row that the word spells. -/
theorem find?_matchesWord_of_pairwise_apart {rows : List OpcodeRow} {r : OpcodeRow} {w : CodeWord}
    (hapart : rows.Pairwise OpcodeRow.Apart) (hr : r ∈ rows) (hw : r.matchesWord w = true) :
    rows.find? (·.matchesWord w) = some r := by
  induction rows with
  | nil => cases hr
  | cons x xs ih =>
    obtain ⟨hx, hxs⟩ := List.pairwise_cons.1 hapart
    cases hr with
    | head => exact List.find?_cons_of_pos hw
    | tail _ hr =>
      have hnot := (hx r hr).not_matchesWord hw
      simpa [hnot] using ih hxs hr

/-- R101: a word that spells a row of the map decodes to what the row builds. -/
theorem decode_of_row {mask pattern w : CodeWord} {build : CodeWord → Instr} {i : Instr}
    (hrow : ⟨mask, pattern, build⟩ ∈ opcodeTable) (hw : w &&& mask = pattern)
    (hi : build w = i) : decode w = .ok i := by
  subst hi
  simp [decode, find?_matchesWord_of_pairwise_apart opcodeTable_pairwise_apart hrow
    (matchesWord_iff.2 hw)]

/-! ### The fields of an encoded word (R97) -/

/-- A field that a row's mask leaves out is 0 in the row's pattern. -/
theorem extractLsb'_of_masked {op m : CodeWord} {s n : Nat} (hop : op &&& m = op)
    (hm : m.extractLsb' s n = 0#n) : op.extractLsb' s n = 0#n := by
  rw [← hop, BitVec.extractLsb'_and, hm, BitVec.and_zero]

/-- An operand in the low bits, above which the rest of the word stands, is read back. -/
theorem lowField_or {rest : CodeWord} {n k : Nat} (hn : n ≤ 14)
    (hrest : rest.extractLsb' 0 n = 0#n) (hk : k < 2 ^ n) :
    ((rest ||| (BitVec.ofNat n k).setWidth 14).extractLsb' 0 n).toNat = k := by
  have hplaced : ((BitVec.ofNat n k).setWidth 14).extractLsb' 0 n = BitVec.ofNat n k := by
    rw [← BitVec.setWidth_eq_extractLsb' hn, BitVec.setWidth_setWidth_of_le _ hn,
      BitVec.setWidth_eq]
  rw [BitVec.extractLsb'_or, hrest, hplaced, BitVec.zero_or, BitVec.toNat_ofNat,
    Nat.mod_eq_of_lt hk]

/-- An operand placed from bit 7 up is read back over the seven bits of `f`. -/
theorem highField_or {op : CodeWord} {x : BitVec 7} {n k : Nat} (hn : 7 + n ≤ 14)
    (hop : op.extractLsb' 7 n = 0#n) (hk : k < 2 ^ n) :
    ((op ||| ((BitVec.ofNat n k).setWidth 14 <<< 7) ||| x.setWidth 14).extractLsb' 7 n).toNat
      = k := by
  have hplaced : ((BitVec.ofNat n k).setWidth 14 <<< 7).extractLsb' 7 n = BitVec.ofNat n k := by
    ext i hi
    simp [show 7 + i < 14 by omega, BitVec.getLsbD_eq_getElem hi]
  have hlow : (x.setWidth 14).extractLsb' 7 n = 0#n := by
    ext i hi
    simp [BitVec.getLsbD_setWidth]
  rw [BitVec.extractLsb'_or, BitVec.extractLsb'_or, hop, hplaced, hlow, BitVec.zero_or,
    BitVec.or_zero, BitVec.toNat_ofNat, Nat.mod_eq_of_lt hk]

/-- What is placed from bit 7 up leaves the seven bits of `f` free. -/
theorem placedHigh_low {op : CodeWord} (y : CodeWord) (hop : op.extractLsb' 0 7 = 0#7) :
    (op ||| (y <<< 7)).extractLsb' 0 7 = 0#7 := by
  have hplaced : (y <<< 7).extractLsb' 0 7 = 0#7 := by
    ext i hi
    simp [hi]
  rw [BitVec.extractLsb'_or, hop, hplaced, BitVec.zero_or]

/-! ### Decoding each format (R92 to R95) -/

section Formats

open Sys2Proof.Laws

variable {op m : CodeWord} {f d b k : Nat}

/-- R92: a byte-oriented row reads `f` and `d` where the encoder places them. -/
theorem decode_encodeByteOp {c : Nat → Nat → Instr}
    (hrow : ⟨0x3F00#14, op, fun w => c (fieldF w) (fieldD w)⟩ ∈ opcodeTable)
    (hf : f < 128) (hd : d < 2) : decode (encodeByteOp op f d) = .ok (c f d) := by
  have hop : op &&& 0x3F00#14 = op := pattern_and_mask _ hrow
  have hF : fieldF (encodeByteOp op f d) = f :=
    lowField_or (by decide) (placedHigh_low _ (extractLsb'_of_masked hop rfl)) hf
  have hD : fieldD (encodeByteOp op f d) = d :=
    highField_or (by decide) (extractLsb'_of_masked hop rfl) hd
  exact decode_of_row hrow ((encodeByteOp_row op f d).trans hop) (congrArg₂ c hF hD)

/-- R92: CLRF and MOVWF read `f`; bit 7 is part of the opcode. -/
theorem decode_encodeFileOp {c : Nat → Instr}
    (hrow : ⟨0x3F80#14, op, fun w => c (fieldF w)⟩ ∈ opcodeTable) (hf : f < 128) :
    decode (encodeFileOp op f) = .ok (c f) := by
  have hop : op &&& 0x3F80#14 = op := pattern_and_mask _ hrow
  have hF : fieldF (encodeFileOp op f) = f :=
    lowField_or (by decide) (extractLsb'_of_masked hop rfl) hf
  exact decode_of_row hrow ((encodeFileOp_row op f).trans hop) (congrArg c hF)

/-- R93: a bit-oriented row reads `f` and `b` where the encoder places them. -/
theorem decode_encodeBitOp {c : Nat → Nat → Instr}
    (hrow : ⟨0x3C00#14, op, fun w => c (fieldF w) (fieldB w)⟩ ∈ opcodeTable)
    (hf : f < 128) (hb : b < 8) : decode (encodeBitOp op f b) = .ok (c f b) := by
  have hop : op &&& 0x3C00#14 = op := pattern_and_mask _ hrow
  have hF : fieldF (encodeBitOp op f b) = f :=
    lowField_or (by decide) (placedHigh_low _ (extractLsb'_of_masked hop rfl)) hf
  have hB : fieldB (encodeBitOp op f b) = b :=
    highField_or (by decide) (extractLsb'_of_masked hop rfl) hb
  exact decode_of_row hrow ((encodeBitOp_row op f b).trans hop) (congrArg₂ c hF hB)

/-- R94: a literal row, whichever bits above `k` its mask leaves out, reads `k`. -/
theorem decode_encodeLiteral {c : Nat → Instr}
    (hrow : ⟨m, op, fun w => c (fieldK8 w)⟩ ∈ opcodeTable) (hm : m &&& 0x00FF#14 = 0#14)
    (hk : k < 256) : decode (encodeLiteral op k) = .ok (c k) := by
  have hop : op &&& m = op := pattern_and_mask _ hrow
  have hfree : m.extractLsb' 0 8 = 0#8 := by
    have hlow : m.extractLsb' 0 8 &&& BitVec.allOnes 8 = 0#8 :=
      (BitVec.extractLsb'_and ..).symm.trans (congrArg (BitVec.extractLsb' 0 8) hm)
    rwa [BitVec.and_allOnes] at hlow
  have hK : fieldK8 (encodeLiteral op k) = k :=
    lowField_or (by decide) (extractLsb'_of_masked hop hfree) hk
  exact decode_of_row hrow ((encodeLiteral_row op m k hm).trans hop) (congrArg c hK)

/-- R95: CALL and GOTO read `k`. -/
theorem decode_encodeTarget {c : Nat → Instr}
    (hrow : ⟨0x3800#14, op, fun w => c (fieldK11 w)⟩ ∈ opcodeTable) (hk : k < 2048) :
    decode (encodeTarget op k) = .ok (c k) := by
  have hop : op &&& 0x3800#14 = op := pattern_and_mask _ hrow
  have hK : fieldK11 (encodeTarget op k) = k :=
    lowField_or (by decide) (extractLsb'_of_masked hop rfl) hk
  exact decode_of_row hrow ((encodeTarget_row op k).trans hop) (congrArg c hK)

end Formats

/-- R110: the range of an 8-bit literal. -/
theorem literalInRange_iff {k : Nat} : literalInRange k = true ↔ k < 256 := by
  simp [literalInRange]

/-- R110: the range of a branch target. -/
theorem targetInRange_iff {k : Nat} : targetInRange k = true ↔ k < 2048 := by
  simp [targetInRange]

open Sys2Proof.Machine in
/-- R102: decoding undoes encoding, format by format. -/
theorem decode_encode {i : Instr} (hwf : i.wellFormed = true) : decode (encode i) = .ok i := by
  cases i with
  | addwf f d | andwf f d | comf f d | decf f d | decfsz f d | incf f d | incfsz f d | iorwf f d
  | movf f d | rlf f d | rrf f d | subwf f d | swapf f d | xorwf f d =>
    obtain ⟨hf, hd⟩ := byteOperandsInRange_iff.1 hwf
    exact decode_encodeByteOp (by simp [opcodeTable, byteRows]) hf hd
  | clrf f | movwf f =>
    exact decode_encodeFileOp (by simp [opcodeTable, byteRows]) (fileInRange_iff.1 hwf)
  | bcf f b | bsf f b | btfsc f b | btfss f b =>
    obtain ⟨hf, hb⟩ := bitOperandsInRange_iff.1 hwf
    exact decode_encodeBitOp (by simp [opcodeTable, bitRows]) hf hb
  | addlw k | sublw k =>
    exact decode_encodeLiteral (m := 0x3E00#14) (by simp [opcodeTable, literalRows]) rfl
      (literalInRange_iff.1 hwf)
  | movlw k | retlw k =>
    exact decode_encodeLiteral (m := 0x3C00#14) (by simp [opcodeTable, literalRows]) rfl
      (literalInRange_iff.1 hwf)
  | andlw k | iorlw k | xorlw k =>
    exact decode_encodeLiteral (m := 0x3F00#14) (by simp [opcodeTable, literalRows]) rfl
      (literalInRange_iff.1 hwf)
  | call k | goto k =>
    exact decode_encodeTarget (by simp [opcodeTable, literalRows]) (targetInRange_iff.1 hwf)
  | clrw | nop | clrwdt | retfie | ret | sleep => decide

open Sys2Proof.Claims Sys2Proof.Laws in
/-- R99: the encoder leaves the don't-care bits 0; in a literal row they lie outside `k` and are 0
in the match value. -/
theorem encode_and_dontCareBits (i : Instr) : encode i &&& dontCareBits i = 0#14 := by
  cases i with
  | movlw k | retlw k => exact encodeLiteral_row _ 0x0300#14 k rfl
  | addlw k | sublw k => exact encodeLiteral_row _ 0x0100#14 k rfl
  | nop | clrw => rfl
  | _ => exact BitVec.and_zero

/-! ### The words that spell no instruction (R100) -/

/-- R101: the decoder rejects a word exactly when it spells no row. -/
theorem decode_eq_unassigned_iff {w : CodeWord} :
    decode w = .error (.unassignedEncoding w) ↔ ∀ r ∈ opcodeTable, ¬ r.matchesWord w = true := by
  rw [← List.find?_eq_none]
  unfold decode
  cases opcodeTable.find? (·.matchesWord w) <;> simp

/-- Bits 13:7 and bits 6:0 make up a word. -/
theorem high_append_low (w : CodeWord) : w = w.extractLsb' 7 7 ++ w.extractLsb' 0 7 := by
  rw [BitVec.extractLsb'_append_extractLsb'_eq_extractLsb' (by rfl)]
  exact BitVec.extractLsb'_eq_self.symm

/-- A word as a number, from the numbers of those two halves. -/
theorem toNat_high_append_low (h l : BitVec 7) : (h ++ l).toNat = 128 * h.toNat + l.toNat := by
  rw [BitVec.toNat_append, ← Nat.shiftLeft_add_eq_or_of_lt l.isLt, Nat.shiftLeft_eq]
  omega

/-- R98: a row reads no bit below bit 7, or it is one of the rows with bits 13:7 all 0 (NOP,
CLRWDT, RETFIE, RETURN, SLEEP). -/
theorem mask_inside_high_or_high_zero : ∀ r ∈ opcodeTable,
    0x3F80#14 &&& r.mask = r.mask ∨
      r.mask &&& 0x3F80#14 = 0x3F80#14 ∧ r.pattern &&& 0x3F80#14 = 0#14 := by
  decide

/-- Where bits 13:7 are not all 0 they alone decide whether a row is spelled. -/
theorem matchesWord_of_high {r : OpcodeRow} (hr : r ∈ opcodeTable) {h l : BitVec 7}
    (l' : BitVec 7) (hh : h ≠ 0#7) (hw : r.matchesWord (h ++ l) = true) :
    r.matchesWord (h ++ l') = true := by
  have hhigh (x : BitVec 7) : (h ++ x) &&& 0x3F80#14 = h ++ 0#7 := by
    rw [show 0x3F80#14 = BitVec.allOnes 7 ++ 0#7 from rfl, BitVec.and_append, BitVec.and_allOnes,
      BitVec.and_zero]
  rw [matchesWord_iff] at hw ⊢
  rcases mask_inside_high_or_high_zero r hr with hmask | ⟨hmask, hpattern⟩
  · rw [← hmask, ← BitVec.and_assoc, hhigh] at hw ⊢
    exact hw
  · have hzero : h ++ 0#7 = 0#7 ++ 0#7 := by
      rw [← hhigh l, ← hmask, ← BitVec.and_assoc, hw, hpattern]; rfl
    exact absurd ((BitVec.append_left_inj _).1 hzero) hh

/-- So those bits alone decide whether the word is rejected. -/
theorem decode_high_append_unassigned_iff {h : BitVec 7} (hh : h ≠ 0#7) (l : BitVec 7) :
    decode (h ++ l) = .error (.unassignedEncoding (h ++ l)) ↔
      decode (h ++ 0#7) = .error (.unassignedEncoding (h ++ 0#7)) := by
  simp only [decode_eq_unassigned_iff]
  exact forall₂_congr fun r hr =>
    not_congr ⟨matchesWord_of_high hr 0#7 hh, matchesWord_of_high hr l hh⟩

/-- R100: with bits 13:7 not all 0, the two blocks `3B00h`-`3B7Fh` and `3B80h`-`3BFFh`. -/
theorem decode_high_unassigned_iff : ∀ h : BitVec 7, h ≠ 0#7 →
    (decode (h ++ 0#7) = .error (.unassignedEncoding (h ++ 0#7)) ↔
      0x76 ≤ h.toNat ∧ h.toNat ≤ 0x77) := by
  decide +kernel

/-- R100: with bits 13:7 all 0, the 120 words of the first six ranges. -/
theorem decode_low_unassigned_iff : ∀ l : BitVec 7,
    (decode (0#7 ++ l) = .error (.unassignedEncoding (0#7 ++ l)) ↔
      (0x01 ≤ l.toNat ∧ l.toNat ≤ 0x07) ∨ (0x0A ≤ l.toNat ∧ l.toNat ≤ 0x1F) ∨
      (0x21 ≤ l.toNat ∧ l.toNat ≤ 0x3F) ∨ (0x41 ≤ l.toNat ∧ l.toNat ≤ 0x5F) ∨
      (0x61 ≤ l.toNat ∧ l.toNat ≤ 0x62) ∨ (0x65 ≤ l.toNat ∧ l.toNat ≤ 0x7F)) := by
  decide +kernel

end Sys2Proof

namespace Sys2Proof.Machine

/-- R100: the fetch of a placed word that spells no instruction. -/
theorem fetch_of_decode_error {s : State} {w : CodeWord} {e : DecodeError}
    (hw : s.prog.lookup s.pc.toNat = some w) (he : decode w = .error e) :
    s.fetch = .error (.unassignedEncoding w) := by
  simp [State.fetch, hw, he]

end Sys2Proof.Machine

namespace Sys2Proof.Proofs

open Sys2Proof.Machine

/-- Settles O2: the round trip format by format, and the don't-care bits. -/
theorem decodeEncodeRoundTrip : Obligations.DecodeEncodeRoundTrip :=
  fun i hwf => ⟨decode_encode hwf, encode_and_dontCareBits i⟩

/-- Settles O4: the words with bits 13:7 all 0 are read off one by one, the others by those bits
alone; the refused fetch refuses the step. -/
theorem unassignedWordsAreTheseRanges : Obligations.UnassignedWordsAreTheseRanges := by
  intro w
  refine ⟨?ranges, fun hdecode s hrun hw => ?step⟩
  case ranges =>
    obtain ⟨h, l, rfl⟩ : ∃ h l : BitVec 7, w = h ++ l := ⟨_, _, high_append_low w⟩
    rw [toNat_high_append_low]
    have hl := l.isLt
    by_cases hh : h = 0#7
    · subst hh
      rw [decode_low_unassigned_iff]
      simp only [BitVec.toNat_ofNat]
      omega
    · have hpos : h.toNat ≠ 0 := fun h0 => hh (BitVec.eq_of_toNat_eq h0)
      rw [decode_high_append_unassigned_iff hh, decode_high_unassigned_iff h hh]
      omega
  case step =>
    rw [step_of_runsInstruction hrun,
      runInstruction_of_fetch_error (fetch_of_decode_error hw hdecode)]

end Sys2Proof.Proofs
end

section
/-! SUPPORT and proofs for spec/40_byte_file_ops.md. The words of a byte-oriented instruction are
its opcode plus its fields (R92); its effect is a read, one ALU result and a write of the result
(R120), so each instruction adds only what its ALU result and flags are in plain numbers. -/

namespace Sys2Proof

open Sys2Proof.Claims

/-! ### Words written as sums (R92, R97) -/

/-- A field placed where the rest of the word is 0 is added to it. -/
theorem or_placed_eq_add {rest : CodeWord} {s n k : Nat} (hrest : rest.extractLsb' s n = 0#n)
    (hk : k < 2 ^ n) :
    rest ||| ((BitVec.ofNat n k).setWidth 14 <<< s) = rest + BitVec.ofNat 14 (2 ^ s * k) := by
  have hplaced : (BitVec.ofNat n k).setWidth 14 <<< s = BitVec.ofNat 14 (2 ^ s * k) := by
    apply BitVec.eq_of_toNat_eq
    simp [Nat.mod_eq_of_lt hk, Nat.shiftLeft_eq, Nat.mul_comm]
  have hdisjoint : rest &&& ((BitVec.ofNat n k).setWidth 14 <<< s) = 0#14 := by
    ext i hi
    by_cases hs : i < s
    · simp [hs]
    by_cases hn : i - s < n
    · have hidx : s + (i - s) = i := by omega
      have hbit : (rest.extractLsb' s n).getLsbD (i - s) = false := by simp [hrest]
      have hfree : rest[i] = false := by simpa [hn, hidx, hi] using hbit
      simp [hfree]
    · simp [BitVec.getLsbD_of_ge _ _ (Nat.le_of_not_lt hn)]
  rw [← BitVec.add_eq_or_of_and_eq_zero _ _ hdisjoint, hplaced]

/-- R92: the word of CLRF, MOVWF and, with its free bits in place of `f`, of CLRW. -/
theorem encodeFileOp_eq_ofNat {op f : Nat} (hop : (BitVec.ofNat 14 op).extractLsb' 0 7 = 0#7)
    (hf : f < 128) : encodeFileOp (BitVec.ofNat 14 op) f = BitVec.ofNat 14 (op + f) := by
  have hsum := or_placed_eq_add hop hf
  rw [BitVec.shiftLeft_zero] at hsum
  rw [encodeFileOp, hsum, ← BitVec.ofNat_add, Nat.pow_zero, Nat.one_mul]

/-- R92: the word of an instruction `f,d`. -/
theorem encodeByteOp_eq_ofNat {op f d : Nat}
    (hlow : (BitVec.ofNat 14 op).extractLsb' 0 7 = 0#7)
    (hbit : (BitVec.ofNat 14 op).extractLsb' 7 1 = 0#1) (hf : f < 128) (hd : d < 2) :
    encodeByteOp (BitVec.ofNat 14 op) f d = BitVec.ofNat 14 (op + 128 * d + f) := by
  have hsum : BitVec.ofNat 14 op ||| ((BitVec.ofNat 1 d).setWidth 14 <<< 7)
      = BitVec.ofNat 14 op + BitVec.ofNat 14 (128 * d) := or_placed_eq_add hbit hd
  have hfree := placedHigh_low ((BitVec.ofNat 1 d).setWidth 14) hlow
  rw [hsum, ← BitVec.ofNat_add] at hfree
  rw [← encodeFileOp_eq_ofNat hfree hf, BitVec.ofNat_add, ← hsum, encodeFileOp, encodeByteOp]

/-- R92, R98: a byte-oriented row of the map spells its instruction. -/
theorem spelledByteOp_of_row {op : Nat} {i : Nat → Nat → Instr}
    (hrow : ⟨0x3F00#14, BitVec.ofNat 14 op, fun w => i (fieldF w) (fieldD w)⟩ ∈ opcodeTable) :
    SpelledByteOp op i := by
  intro f d hf hd
  have hop : BitVec.ofNat 14 op &&& 0x3F00#14 = BitVec.ofNat 14 op := pattern_and_mask _ hrow
  rw [← encodeByteOp_eq_ofNat (extractLsb'_of_masked hop rfl) (extractLsb'_of_masked hop rfl) hf hd]
  exact decode_encodeByteOp hrow hf hd

/-- R92, R98: a row with `f` as its only operand. -/
theorem decode_fileOp_of_row {op f : Nat} {i : Nat → Instr}
    (hrow : ⟨0x3F80#14, BitVec.ofNat 14 op, fun w => i (fieldF w)⟩ ∈ opcodeTable) (hf : f < 128) :
    decode (BitVec.ofNat 14 (op + f)) = .ok (i f) := by
  have hop : BitVec.ofNat 14 op &&& 0x3F80#14 = BitVec.ofNat 14 op := pattern_and_mask _ hrow
  rw [← encodeFileOp_eq_ofNat (extractLsb'_of_masked hop rfl) hf]
  exact decode_encodeFileOp hrow hf

open Sys2Proof.Laws in
/-- R99: every value of CLRW's seven don't-care bits spells it. -/
theorem decode_clrw {x : Nat} (hx : x < 128) :
    decode (BitVec.ofNat 14 (0x0100 + x)) = .ok .clrw := by
  rw [← encodeFileOp_eq_ofNat (by decide) hx]
  exact decode_of_row (mask := 0x3F80#14) (pattern := 0x0100#14) (build := fun _ => .clrw)
    (by simp [opcodeTable, byteRows]) (encodeFileOp_row _ x) rfl

end Sys2Proof

namespace Sys2Proof.Machine

open Sys2Proof.Claims

/-! ### STATUS after an instruction (R35, R47) -/

/-- R47: STATUS with the listed flags written, where it is not the destination. -/
theorem flagsListed_of_applyFlags {s t : State} {fl : FlagUpdate}
    (h : t.status = applyFlags s.status fl) : FlagsListed s t fl := by
  simp only [FlagsListed, State.flagZ, State.flagDC, State.flagC, h]
  exact ⟨applyFlags_z .., applyFlags_dc .., applyFlags_c .., applyFlags_extract_high ..⟩

/-- R35: the model's test for "lists none of C, DC, Z". -/
theorem FlagUpdate.isEmpty_iff {fl : FlagUpdate} : fl.isEmpty = true ↔ fl = {} := by
  obtain ⟨z, dc, c⟩ := fl
  simp [FlagUpdate.isEmpty, and_assoc]

/-- R35: STATUS with a byte stored in it, where it is the destination. -/
theorem statusStored_of_writeStatus {s t : State} {r : Byte} {fl : FlagUpdate}
    (h : t.status = writeStatus s.status r fl) : StatusStored s t r fl := by
  have hbit (j : Nat) := writeStatus_getLsbD s.status r fl j
  rw [← h] at hbit
  refine ⟨?bank, ?power, fun hfl => ?data, fun hfl => ?listed⟩
  case bank =>
    ext j hj
    simp [hbit]
  case power =>
    ext j hj
    simp [hbit, show ¬ 5 ≤ 3 + j by omega]
  case data =>
    subst hfl
    ext j hj
    simp [hbit, FlagUpdate.isEmpty, show ¬ 5 ≤ j by omega, show ¬ 3 ≤ j by omega]
  case listed =>
    have hlists : fl.isEmpty = false := Bool.eq_false_iff.2 (mt FlagUpdate.isEmpty_iff.1 hfl)
    refine ⟨(hbit 2).trans ?_, (hbit 1).trans ?_, (hbit 0).trans ?_⟩ <;> (rw [hlists]; rfl)

/-! ### The write of a result (R65, R120) -/

/-- R65: a write to an address that is no peripheral register answers, and stores the byte there;
`n` is where the instruction goes on. -/
theorem memWrite_storedAt (s : State) {a : DataAddr} (r : Byte) (n : ProgAddr) (fl : FlagUpdate)
    (ha : regionOf a ≠ .peripheral) :
    ∃ t, State.memWrite { s with pc := n } a r fl = .ok t ∧ StoredAt s t a r n fl := by
  unfold State.memWrite StoredAt
  cases hr : regionOf a with
  | peripheral => exact absurd hr ha
  | status => exact ⟨_, rfl, rfl, statusStored_of_writeStatus rfl⟩
  | indf | pcl | fsr | pclath | intcon | ram _ | unimplemented =>
    exact ⟨_, rfl, rfl, flagsListed_of_applyFlags rfl⟩

/-- R120: with W as its destination. -/
theorem fileOp_storedInW {s : State} {f : Nat} {v : Byte} (alu : Byte → AluOut) (hf : f < 128)
    (hv : s.memRead (operandAddr s f) = .ok v) :
    ∃ t, fileOp f 0 alu s = .next t ∧ StoredInW s t (alu v).value (alu v).flags :=
  ⟨_, fileOp_w hf hv, rfl, flagsListed_of_applyFlags rfl⟩

/-- R120: with the register as its destination. -/
theorem fileOp_storedAt {s : State} {f : Nat} {v : Byte} (alu : Byte → AluOut) (hf : f < 128)
    (hv : s.memRead (operandAddr s f) = .ok v) :
    ∃ t, fileOp f 1 alu s = .next t ∧
      StoredAt s t (operandAddr s f) (alu v).value (s.pc + 1#13) (alu v).flags := by
  obtain ⟨t, ht, hstored⟩ := memWrite_storedAt s (alu v).value (s.pc + 1#13) (alu v).flags
    (region_of_memRead_ok hv)
  exact ⟨t, (fileOp_file hf hv).trans (orRefuse_next.2 ht), hstored⟩

/-- R120: an instruction whose meaning is `fileOp` completes with its ALU result. -/
theorem byteOpCompletes_of_fileOp {i : Nat → Nat → Instr} {res : State → Byte → Byte}
    {fl : State → Byte → FlagUpdate} (alu : State → Byte → AluOut)
    (hexec : ∀ f d s, exec (i f d) s = fileOp f d (alu s) s)
    (halu : ∀ s v, alu s v = ⟨res s v, fl s v⟩) : ByteOpCompletes i res fl := by
  intro s f v hf hv
  have hw := fileOp_storedInW (alu s) hf hv
  have hfile := fileOp_storedAt (alu s) hf hv
  rw [halu] at hw hfile
  rw [hexec, hexec]
  exact ⟨hw, hfile⟩

/-- R124, R132: CLRF and MOVWF complete for every operand that is no peripheral register. -/
theorem fileStore_storedAt {s : State} {f : Nat} (out : AluOut) (hf : f < 128)
    (hp : regionOf (operandAddr s f) ≠ .peripheral) :
    ∃ t, fileStore f out s = .next t ∧
      StoredAt s t (operandAddr s f) out.value (s.pc + 1#13) out.flags := by
  obtain ⟨t, ht, hstored⟩ := memWrite_storedAt s out.value (s.pc + 1#13) out.flags hp
  refine ⟨t, ?_, hstored⟩
  rw [fileStore, fileOperand_of_lt hf]
  exact orRefuse_next.2 ht

/-! ### The results and flags in plain numbers -/

/-- R16. -/
theorem zflag_eq (r : Byte) : zflag r = decide (r.toNat = 0) := by
  rw [zflag, Bool.eq_iff_iff, beq_iff_eq, decide_eq_true_iff, ← BitVec.toNat_inj]
  rfl

/-- R14, R47. -/
theorem aluAdd_eq (a b : Byte) :
    aluAdd a b = ⟨a + b,
      { z := some (decide ((a.toNat + b.toNat) % 256 = 0))
        dc := some (decide (16 ≤ a.toNat % 16 + b.toNat % 16))
        c := some (decide (256 ≤ a.toNat + b.toNat)) }⟩ := by
  have hdc := Bool.eq_iff_iff.2 ((add8_digitCarry_iff a b).trans decide_eq_true_iff.symm)
  have hc := Bool.eq_iff_iff.2 ((add8_carry_iff a b).trans decide_eq_true_iff.symm)
  rw [aluAdd, arithmeticFlags, add8_value, zflag_eq, BitVec.toNat_add, hdc, hc]

/-- R15, R47: no borrow and a result of 00h only from equal operands. -/
theorem aluSub_eq (a b : Byte) :
    aluSub a b = ⟨a - b,
      { z := some (decide (a.toNat = b.toNat))
        dc := some (decide (b.toNat % 16 ≤ a.toNat % 16))
        c := some (decide (b.toNat ≤ a.toNat)) }⟩ := by
  have hz : (a - b).toNat = 0 ↔ a.toNat = b.toNat := by bv_omega
  have hdc := Bool.eq_iff_iff.2 ((sub8_digitCarry_iff a b).trans decide_eq_true_iff.symm)
  have hc := Bool.eq_iff_iff.2 ((sub8_carry_iff a b).trans decide_eq_true_iff.symm)
  simp only [aluSub, arithmeticFlags, sub8_value, zflag_eq, hz, hdc, hc]

/-- R16, R47. -/
theorem aluZ_eq_listsZ (r : Byte) : aluZ r = ⟨r, listsZ r⟩ := by
  rw [aluZ, zOnly, zflag_eq, listsZ]

/-- R120, R47: an instruction that lists Z only completes with its result and its Z. -/
theorem byteOpCompletes_of_aluZ {i : Nat → Nat → Instr} {res : State → Byte → Byte}
    (hexec : ∀ f d s, exec (i f d) s = fileOp f d (fun v => aluZ (res s v)) s) :
    ByteOpCompletes i res (fun s v => listsZ (res s v)) :=
  byteOpCompletes_of_fileOp _ hexec fun s v => aluZ_eq_listsZ (res s v)

/-- R126: the result is 00h only from 01h. -/
theorem aluZ_decrement (v : Byte) :
    aluZ (v - 1#8) = ⟨v - 1#8, { z := some (decide (v.toNat = 1)) }⟩ := by
  have hz : (v - 1#8).toNat = 0 ↔ v.toNat = 1 := by bv_omega
  simp only [aluZ, zOnly, zflag_eq, hz]

/-- R128: the result is 00h only from FFh. -/
theorem aluZ_increment (v : Byte) :
    aluZ (v + 1#8) = ⟨v + 1#8, { z := some (decide (v.toNat = 255)) }⟩ := by
  have hz : (v + 1#8).toNat = 0 ↔ v.toNat = 255 := by bv_omega
  simp only [aluZ, zOnly, zflag_eq, hz]

/-- Two fields side by side, as a number. -/
theorem toNat_append_eq_add {m n : Nat} (x : BitVec m) (y : BitVec n) :
    (x ++ y).toNat = 2 ^ n * x.toNat + y.toNat := by
  rw [BitVec.toNat_append, ← Nat.shiftLeft_add_eq_or_of_lt y.isLt, Nat.shiftLeft_eq, Nat.mul_comm]

/-- R134: twice the byte plus the carry in, the old bit 7 left out by the width. -/
theorem aluRotateLeft_eq (a : Byte) (cin : Bool) :
    aluRotateLeft a cin =
      ⟨BitVec.ofNat 8 (2 * a.toNat + cin.toNat), { c := some (a.getLsbD 7) }⟩ := by
  have hvalue : a.extractLsb' 0 7 ++ BitVec.ofBool cin
      = BitVec.ofNat 8 (2 * a.toNat + cin.toNat) := by
    apply BitVec.eq_of_toNat_eq
    have hcin := cin.toNat_le
    rw [toNat_append_eq_add, BitVec.extractLsb'_toNat, BitVec.toNat_ofBool, BitVec.toNat_ofNat,
      Nat.shiftRight_zero]
    omega
  rw [aluRotateLeft, hvalue]

/-- R135: half the byte with the carry in above it. -/
theorem aluRotateRight_eq (a : Byte) (cin : Bool) :
    aluRotateRight a cin =
      ⟨BitVec.ofNat 8 (128 * cin.toNat + a.toNat / 2), { c := some (a.getLsbD 0) }⟩ := by
  have hvalue : BitVec.ofBool cin ++ a.extractLsb' 1 7
      = BitVec.ofNat 8 (128 * cin.toNat + a.toNat / 2) := by
    apply BitVec.eq_of_toNat_eq
    have ha := a.isLt
    have hcin := cin.toNat_le
    rw [toNat_append_eq_add, BitVec.extractLsb'_toNat, BitVec.toNat_ofBool, BitVec.toNat_ofNat,
      Nat.shiftRight_eq_div_pow]
    omega
  rw [aluRotateRight, hvalue]

/-- R137: the low nibble moves up, the high one down. -/
theorem swapNibbles_eq (a : Byte) :
    swapNibbles a = BitVec.ofNat 8 (16 * (a.toNat % 16) + a.toNat / 16) := by
  apply BitVec.eq_of_toNat_eq
  have hhigh : a.toNat / 16 < 16 := Nat.div_lt_of_lt_mul a.isLt
  rw [swapNibbles, toNat_append_eq_add, lowNibble_toNat, BitVec.extractLsb'_toNat,
    BitVec.toNat_ofNat, Nat.shiftRight_eq_div_pow, Nat.mod_eq_of_lt hhigh]
  omega

end Sys2Proof.Machine

namespace Sys2Proof.Proofs

open Sys2Proof.Machine

/-- Settles O14: the addition of R14. -/
theorem addwfAddsWAndFile : Obligations.AddwfAddsWAndFile :=
  ⟨spelledByteOp_of_row (by simp [opcodeTable, byteRows]),
    byteOpCompletes_of_fileOp (fun s v => aluAdd s.w v) (fun _ _ _ => rfl)
      fun s v => aluAdd_eq s.w v⟩

/-- Settles O15: the subtraction of R15, W from the register. -/
theorem subwfSubtractsWFromFile : Obligations.SubwfSubtractsWFromFile :=
  ⟨spelledByteOp_of_row (by simp [opcodeTable, byteRows]),
    byteOpCompletes_of_fileOp (fun s v => aluSub v s.w) (fun _ _ _ => rfl)
      fun s v => aluSub_eq v s.w⟩

/-- Settles O16: four results with Z as the only listed flag. -/
theorem logicFileInstructions : Obligations.LogicFileInstructions := by
  refine ⟨⟨?_, ?andwf⟩, ⟨?_, ?comf⟩, ⟨?_, ?iorwf⟩, ⟨?_, ?xorwf⟩⟩
  case andwf => exact byteOpCompletes_of_aluZ fun _ _ _ => rfl
  case comf => exact byteOpCompletes_of_aluZ fun _ _ _ => rfl
  case iorwf => exact byteOpCompletes_of_aluZ fun _ _ _ => rfl
  case xorwf => exact byteOpCompletes_of_aluZ fun _ _ _ => rfl
  all_goals exact spelledByteOp_of_row (by simp [opcodeTable, byteRows])

/-- Settles O17: Z is 1 from 01h, from FFh and from 00h. -/
theorem countAndMoveInstructions : Obligations.CountAndMoveInstructions := by
  refine ⟨⟨?_, ?decf⟩, ⟨?_, ?incf⟩, ⟨?_, ?movf⟩⟩
  case decf => exact byteOpCompletes_of_fileOp _ (fun _ _ _ => rfl) fun _ v => aluZ_decrement v
  case incf => exact byteOpCompletes_of_fileOp _ (fun _ _ _ => rfl) fun _ v => aluZ_increment v
  case movf => exact byteOpCompletes_of_aluZ fun _ _ _ => rfl
  all_goals exact spelledByteOp_of_row (by simp [opcodeTable, byteRows])

/-- Settles O18: the two rotates through the old C. -/
theorem rotateInstructions : Obligations.RotateInstructions := by
  refine ⟨⟨?_, ?rlf⟩, ⟨?_, ?rrf⟩⟩
  case rlf =>
    exact byteOpCompletes_of_fileOp _ (fun _ _ _ => rfl) fun s v => aluRotateLeft_eq v s.flagC
  case rrf =>
    exact byteOpCompletes_of_fileOp _ (fun _ _ _ => rfl) fun s v => aluRotateRight_eq v s.flagC
  all_goals exact spelledByteOp_of_row (by simp [opcodeTable, byteRows])

/-- Settles O19: the nibbles exchanged, with no listed flag. -/
theorem swapfExchangesNibbles : Obligations.SwapfExchangesNibbles :=
  ⟨spelledByteOp_of_row (by simp [opcodeTable, byteRows]),
    byteOpCompletes_of_fileOp (fun _ v => aluPlain (swapNibbles v)) (fun _ _ _ => rfl)
      fun _ v => congrArg aluPlain (swapNibbles_eq v)⟩

/-- Settles O20: both are one store of a byte that is not computed from the operand. -/
theorem clearAndStoreInstructions : Obligations.ClearAndStoreInstructions := by
  refine ⟨fun f hf => ⟨?clrfWord, ?movwfWord⟩, fun s f hf hp => ⟨?clrf, ?movwf⟩⟩
  case clrf => exact fileStore_storedAt ⟨0x00#8, { z := some true }⟩ hf hp
  case movwf => exact fileStore_storedAt (aluPlain s.w) hf hp
  all_goals exact decode_fileOp_of_row (by simp [opcodeTable, byteRows]) hf

/-- Settles O21: every word of CLRW, and its effect in every state. -/
theorem clrwClearsW : Obligations.ClrwClearsW :=
  ⟨fun _ hx => decode_clrw hx, fun _ => ⟨_, rfl, rfl, flagsListed_of_applyFlags rfl⟩⟩

end Sys2Proof.Proofs
end

section
/-! SUPPORT and proofs for spec/41_bit_ops.md. The words of a bit-oriented instruction are its opcode
plus its fields (R93). The two writers are one store of the byte read with the bit changed (R151,
R152), the two tests one choice of the next pc (R153, R154). -/

namespace Sys2Proof

open Sys2Proof.Claims

/-! ### Words written as sums (R93, R97) -/

/-- R93: the word of an instruction `f,b`; under its `b` stands the word of an instruction `f`. -/
theorem encodeBitOp_eq_ofNat {op f b : Nat}
    (hlow : (BitVec.ofNat 14 op).extractLsb' 0 7 = 0#7)
    (hbits : (BitVec.ofNat 14 op).extractLsb' 7 3 = 0#3) (hf : f < 128) (hb : b < 8) :
    encodeBitOp (BitVec.ofNat 14 op) f b = BitVec.ofNat 14 (op + 128 * b + f) := by
  have hsum : BitVec.ofNat 14 op ||| ((BitVec.ofNat 3 b).setWidth 14 <<< 7)
      = BitVec.ofNat 14 (op + 128 * b) :=
    (or_placed_eq_add hbits hb).trans (BitVec.ofNat_add ..).symm
  have hfree := placedHigh_low ((BitVec.ofNat 3 b).setWidth 14) hlow
  rw [hsum] at hfree
  exact (congrArg (encodeFileOp · f) hsum).trans (encodeFileOp_eq_ofNat hfree hf)

/-- R93, R98: a bit-oriented row of the map spells its instruction. -/
theorem spelledBitOp_of_row {op : Nat} {i : Nat → Nat → Instr}
    (hrow : ⟨0x3C00#14, BitVec.ofNat 14 op, fun w => i (fieldF w) (fieldB w)⟩ ∈ opcodeTable) :
    SpelledBitOp op i := by
  intro f b hf hb
  have hop : BitVec.ofNat 14 op &&& 0x3C00#14 = BitVec.ofNat 14 op := pattern_and_mask _ hrow
  rw [← encodeBitOp_eq_ofNat (extractLsb'_of_masked hop rfl) (extractLsb'_of_masked hop rfl) hf hb]
  exact decode_encodeBitOp hrow hf hb

end Sys2Proof

namespace Sys2Proof.Machine

open Sys2Proof.Claims

/-! ### A readable operand (R150) -/

section ReadableOperand

variable {s : State} {f b : Nat} {v : Byte} (hf : f < 128) (hb : b < 8)
  (hv : s.memRead (operandAddr s f) = .ok v)
include hf hb hv

/-- R151, R152: the byte read is stored back with bit `b` made `x`. -/
theorem bitWriteOp_storedAt (x : Bool) :
    ∃ t, bitWriteOp f b x s = .next t ∧
      StoredAt s t (operandAddr s f) (setBitTo v b x) (s.pc + 1#13) {} := by
  obtain ⟨t, ht, hstored⟩ := memWrite_storedAt s (setBitTo v b x) (s.pc + 1#13) {}
    (region_of_memRead_ok hv)
  rw [operandAddr] at hv ht
  refine ⟨t, ?_, hstored⟩
  simp only [bitWriteOp, fileOperand_of_lt hf, bitOperand_of_lt hb, hv]
  exact orRefuse_next.2 ht

/-- R153, R154: nothing is written but the pc. -/
theorem bitSkipOp_of_read (x : Bool) :
    bitSkipOp f b x s =
      .next { s with pc := if v.getLsbD b = x then s.pc + 2#13 else s.pc + 1#13 } := by
  rw [operandAddr] at hv
  simp only [bitSkipOp, fileOperand_of_lt hf, bitOperand_of_lt hb, hv, State.next, State.next2]

end ReadableOperand

end Sys2Proof.Machine

namespace Sys2Proof.Proofs

open Sys2Proof.Machine

/-- Settles O23: BCF and BSF are one store, of the byte with the bit made 0 or made 1. -/
theorem bitWriteInstructions : Obligations.BitWriteInstructions := by
  refine ⟨⟨?bcfWord, ?bsfWord⟩, fun s f b v hf hb hv => ⟨?bcf, ?bsf⟩⟩
  case bcf => exact bitWriteOp_storedAt hf hb hv false
  case bsf => exact bitWriteOp_storedAt hf hb hv true
  all_goals exact spelledBitOp_of_row (by simp [opcodeTable, bitRows])

/-- Settles O24: BTFSS and BTFSC are one test, for the bit 1 or the bit 0. -/
theorem bitTestInstructions : Obligations.BitTestInstructions := by
  refine ⟨⟨?btfscWord, ?btfssWord⟩, fun s f b v hf hb hv => ⟨?btfss, ?btfsc⟩⟩
  case btfss => exact bitSkipOp_of_read hf hb hv true
  case btfsc => exact bitSkipOp_of_read hf hb hv false
  all_goals exact spelledBitOp_of_row (by simp [opcodeTable, bitRows])

end Sys2Proof.Proofs
end

section
/-! SUPPORT and proofs for spec/42_literal_ops.md. The words of a literal instruction are its
opcode, any value of its don't-care bits and `k` (R94, R99). Its effect in every state is one ALU
result with its listed flags (R160), those of the byte-oriented instruction with `k` in place of the
register. -/

namespace Sys2Proof

open Sys2Proof.Claims Sys2Proof.Laws

/-! ### Words written as sums (R94, R99) -/

/-- R94, R95: an operand in the low bits, which the rest of the word leaves 0. -/
theorem or_operand_eq_ofNat {rest n k : Nat}
    (hrest : (BitVec.ofNat 14 rest).extractLsb' 0 n = 0#n) (hk : k < 2 ^ n) :
    BitVec.ofNat 14 rest ||| (BitVec.ofNat n k).setWidth 14 = BitVec.ofNat 14 (rest + k) := by
  have hsum := or_placed_eq_add hrest hk
  rwa [BitVec.shiftLeft_zero, Nat.pow_zero, Nat.one_mul, ← BitVec.ofNat_add] at hsum

/-- R94, R98, R99: a literal row of the map spells its instruction, whatever stands in the bits
above `k` that the row's mask leaves out. -/
theorem spelledWith_of_literalRow {op xs : Nat} {m : CodeWord} {i : Nat → Instr}
    (hrow : ⟨m, BitVec.ofNat 14 op, fun w => i (fieldK8 w)⟩ ∈ opcodeTable)
    (hm : m &&& 0x00FF#14 = 0#14) (hop : op % 256 = 0)
    (hfree : ∀ x < xs, BitVec.ofNat 14 (op + 256 * x) &&& m = BitVec.ofNat 14 op) :
    SpelledWith op 256 xs i := by
  intro k x hk hx
  have hlow : (BitVec.ofNat 14 (op + 256 * x)).extractLsb' 0 8 = 0#8 := by
    apply BitVec.eq_of_toNat_eq
    simp only [BitVec.extractLsb'_toNat, BitVec.toNat_ofNat, Nat.shiftRight_zero]
    omega
  have hK : fieldK8 (encodeLiteral (BitVec.ofNat 14 (op + 256 * x)) k) = k :=
    lowField_or (by decide) hlow hk
  rw [← or_operand_eq_ofNat hlow hk]
  exact decode_of_row hrow ((encodeLiteral_row _ m k hm).trans (hfree x hx)) (congrArg i hK)

end Sys2Proof

namespace Sys2Proof.Machine

open Sys2Proof.Claims

/-! ### The effect in every state (R160) -/

/-- R160: W and the listed flags, and the pc at `next`. -/
theorem literalOp_of_lt {k : Nat} (alu : Byte → AluOut) (s : State) (hk : k < 256) :
    literalOp k alu s = .next { s with
      w := (alu (BitVec.ofNat 8 k)).value
      status := applyFlags s.status (alu (BitVec.ofNat 8 k)).flags
      pc := s.pc + 1#13 } := by
  rw [literalOp, literalOperand_of_lt hk]
  rfl

/-- R160: an instruction whose meaning is `literalOp` completes with its ALU result. -/
theorem literalCompletes_of_literalOp {i : Nat → Instr} {res : State → Byte → Byte}
    {fl : State → Byte → FlagUpdate} (alu : State → Byte → AluOut)
    (hexec : ∀ k s, exec (i k) s = literalOp k (alu s) s)
    (halu : ∀ s v, alu s v = ⟨res s v, fl s v⟩) : LiteralCompletes i res fl := by
  intro s k hk
  rw [hexec, literalOp_of_lt _ s hk, halu]
  exact ⟨_, rfl, rfl, flagsListed_of_applyFlags rfl⟩

/-- R160, R47: an instruction that lists Z only completes with its result and its Z. -/
theorem literalCompletes_of_aluZ {i : Nat → Instr} {res : State → Byte → Byte}
    (hexec : ∀ k s, exec (i k) s = literalOp k (fun v => aluZ (res s v)) s) :
    LiteralCompletes i res (fun s v => listsZ (res s v)) :=
  literalCompletes_of_literalOp _ hexec fun s v => aluZ_eq_listsZ (res s v)

end Sys2Proof.Machine

namespace Sys2Proof.Proofs

open Sys2Proof.Machine

/-- Settles O25: the addition of R14, and the subtraction of R15 with the literal as its minuend. -/
theorem arithmeticLiterals : Obligations.ArithmeticLiterals := by
  refine ⟨⟨?_, ?addlw⟩, ⟨?_, ?sublw⟩⟩
  case addlw =>
    exact literalCompletes_of_literalOp _ (fun _ _ => rfl) fun s v => aluAdd_eq s.w v
  case sublw =>
    exact literalCompletes_of_literalOp _ (fun _ _ => rfl) fun s v => aluSub_eq v s.w
  all_goals
    exact spelledWith_of_literalRow (m := 0x3E00#14) (by simp [opcodeTable, literalRows]) rfl rfl
      (by decide)

/-- Settles O26: three results with Z as the only listed flag. -/
theorem logicLiterals : Obligations.LogicLiterals := by
  refine ⟨⟨?_, ?andlw⟩, ⟨?_, ?iorlw⟩, ⟨?_, ?xorlw⟩⟩
  case andlw => exact literalCompletes_of_aluZ fun _ _ => rfl
  case iorlw => exact literalCompletes_of_aluZ fun _ _ => rfl
  case xorlw => exact literalCompletes_of_aluZ fun _ _ => rfl
  all_goals
    exact spelledWith_of_literalRow (m := 0x3F00#14) (by simp [opcodeTable, literalRows]) rfl rfl
      (by decide)

/-- Settles O27: the literal as the result, with no listed flag, so that STATUS is kept whole. -/
theorem movlwLoadsW : Obligations.MovlwLoadsW :=
  ⟨spelledWith_of_literalRow (m := 0x3C00#14) (by simp [opcodeTable, literalRows]) rfl rfl
    (by decide), fun s _ hk => literalOp_of_lt aluPlain s hk⟩

end Sys2Proof.Proofs
end

section
/-! SUPPORT and proofs for spec/43_control_transfer.md. The words of CALL and GOTO are the opcode and
the 11 bits of `k` (R95). Their target is a page of 2048 words and `k` inside it (R172, R173); the
three returns are one pop with what each of them writes besides (R174 to R176). -/

namespace Sys2Proof

open Sys2Proof.Claims

/-- R95, R98: CALL and GOTO have no don't-care bits. -/
theorem spelledWith_of_targetRow {op : Nat} {i : Nat → Instr}
    (hrow : ⟨0x3800#14, BitVec.ofNat 14 op, fun w => i (fieldK11 w)⟩ ∈ opcodeTable) :
    SpelledWith op 2048 1 i := by
  intro k x hk hx
  have hop : BitVec.ofNat 14 op &&& 0x3800#14 = BitVec.ofNat 14 op := pattern_and_mask _ hrow
  have hword : encodeTarget (BitVec.ofNat 14 op) k = BitVec.ofNat 14 (op + k) :=
    or_operand_eq_ofNat (extractLsb'_of_masked hop rfl) hk
  rw [Nat.lt_one_iff.1 hx, Nat.mul_zero, Nat.add_zero, ← hword]
  exact decode_encodeTarget hrow hk

end Sys2Proof

namespace Sys2Proof.Machine

/-! ### The target of CALL and GOTO (R172, R173) -/

/-- R172, R173: `PCLATH[4:3] : k` as a number. -/
theorem pageTarget_eq_ofNat {k : Nat} (s : State) (hk : k < 2048) :
    s.pageTarget (BitVec.ofNat 11 k) = BitVec.ofNat 13 (2048 * (s.pclath.toNat / 8) + k) := by
  have hlt := s.pclath.isLt
  have hpage : (s.pclath.extractLsb' 3 2).toNat = s.pclath.toNat / 8 := by
    rw [BitVec.extractLsb'_toNat, Nat.shiftRight_eq_div_pow]
    omega
  apply BitVec.eq_of_toNat_eq
  rw [State.pageTarget, toNat_append_eq_add, hpage, BitVec.toNat_ofNat, BitVec.toNat_ofNat]
  omega

/-- R173: GOTO writes the pc only. -/
theorem execGoto_of_lt {k : Nat} (s : State) (hk : k < 2048) :
    execGoto k s = .next { s with pc := BitVec.ofNat 13 (2048 * (s.pclath.toNat / 8) + k) } := by
  simp only [execGoto, targetOperand_of_lt hk, pageTarget_eq_ofNat s hk]

section Call

variable {s : State} {k : Nat} (hk : k < 2048)
include hk

/-- R172: CALL with room on the stack. -/
theorem execCall_of_room (hroom : s.stack.length < Config.stackDepth) :
    execCall k s = .next { s with
      stack := (s.pc + 1#13) :: s.stack
      pc := BitVec.ofNat 13 (2048 * (s.pclath.toNat / 8) + k) } := by
  simp only [execCall, targetOperand_of_lt hk, push_of_lt s _ hroom, pageTarget_eq_ofNat s hk,
    State.next]

/-- R39, R172: CALL on a full stack. -/
theorem execCall_full (hfull : Config.stackDepth ≤ s.stack.length) :
    execCall k s = .fault .stackOverflow := by
  simp only [execCall, targetOperand_of_lt hk, push_full s _ hfull]

end Call

/-! ### The returns (R174 to R176) -/

section Retlw

variable {s : State} {k : Nat} (hk : k < 256)
include hk

/-- R175: RETLW with an entry to pop. -/
theorem execRetlw_cons {v : ProgAddr} {rest : List ProgAddr} (h : s.stack = v :: rest) :
    execRetlw k s = .next { s with w := BitVec.ofNat 8 k, pc := v, stack := rest } := by
  simp only [execRetlw, literalOperand_of_lt hk]
  exact congrArg orFault (popPc_cons (s := { s with w := BitVec.ofNat 8 k }) h)

/-- R40, R175: RETLW on an empty stack. -/
theorem execRetlw_nil (h : s.stack = []) : execRetlw k s = .fault .stackUnderflow := by
  simp only [execRetlw, literalOperand_of_lt hk]
  exact congrArg orFault (popPc_nil (s := { s with w := BitVec.ofNat 8 k }) h)

end Retlw

/-- R37: GIE is bit 7. -/
theorem setBitTo_gie_true (v : Byte) : setBitTo v Config.bitGIE true = v ||| 0x80#8 := rfl

theorem returnFromInterrupt_cons {s : State} {v : ProgAddr} {rest : List ProgAddr}
    (h : s.stack = v :: rest) :
    s.returnFromInterrupt =
      .ok { s with pc := v, stack := rest, intcon := s.intcon ||| 0x80#8 } := by
  simp only [State.returnFromInterrupt, popPc_cons h, setBitTo_gie_true]

theorem returnFromInterrupt_nil {s : State} (h : s.stack = []) :
    s.returnFromInterrupt = .error .stackUnderflow := by
  simp only [State.returnFromInterrupt, popPc_nil h]

end Sys2Proof.Machine

namespace Sys2Proof.Proofs

open Sys2Proof.Machine

/-- Settles O28: the return stack has room, or it is full. -/
theorem callPushesAndJumps : Obligations.CallPushesAndJumps :=
  ⟨spelledWith_of_targetRow (by simp [opcodeTable, literalRows]),
    fun _ _ hk => ⟨execCall_of_room hk, execCall_full hk⟩⟩

/-- Settles O29: the same target as CALL's, with the stack untouched. -/
theorem gotoJumps : Obligations.GotoJumps :=
  ⟨spelledWith_of_targetRow (by simp [opcodeTable, literalRows]),
    fun s _ hk => execGoto_of_lt s hk⟩

/-- Settles O30: RETURN is the pop itself, RETLW the pop from the state with W loaded. -/
theorem returnsPopThePc : Obligations.ReturnsPopThePc := by
  refine ⟨⟨decode_encode (i := .ret) rfl, ?retlwWord⟩, fun s k hk => ⟨?popped, ?empty⟩⟩
  case retlwWord =>
    exact spelledWith_of_literalRow (m := 0x3C00#14) (by simp [opcodeTable, literalRows]) rfl rfl
      (by decide)
  case popped =>
    intro v rest hstack
    exact ⟨congrArg orFault (popPc_cons hstack), execRetlw_cons hk hstack⟩
  case empty =>
    intro hstack
    exact ⟨congrArg orFault (popPc_nil hstack), execRetlw_nil hk hstack⟩

/-- Settles O31: the pop of R176, and GIE made 1. -/
theorem retfiePopsAndSetsGie : Obligations.RetfiePopsAndSetsGie :=
  ⟨decode_encode (i := .retfie) rfl, fun _ =>
    ⟨fun _ _ hstack => congrArg orFault (returnFromInterrupt_cons hstack),
      fun hstack => congrArg orFault (returnFromInterrupt_nil hstack)⟩⟩

end Sys2Proof.Proofs
end

section
/-! SUPPORT and proofs for spec/44_system_ops.md. The row of NOP leaves out bits 6:5 (R98, R99), so
each of its four words matches it; its effect in every state is the advance of the pc (R191). -/

namespace Sys2Proof

/-- R99: both don't-care bits of NOP lie outside its row's mask. -/
theorem nopWord_and_mask : ∀ x < 4, BitVec.ofNat 14 (32 * x) &&& 0x3F9F#14 = 0x0000#14 := by
  decide

/-- R98, R99: every value of NOP's two don't-care bits spells it. -/
theorem decode_nop {x : Nat} (hx : x < 4) : decode (BitVec.ofNat 14 (32 * x)) = .ok .nop :=
  decode_of_row (mask := 0x3F9F#14) (pattern := 0x0000#14) (build := fun _ => .nop)
    (by simp [opcodeTable, byteRows]) (nopWord_and_mask x hx) rfl

end Sys2Proof

namespace Sys2Proof.Machine

/-- R191: NOP writes the pc only. -/
theorem execNop_eq (s : State) : execNop s = .next { s with pc := s.pc + 1#13 } := by
  simp only [execNop, State.advance, State.next]

end Sys2Proof.Machine

namespace Sys2Proof.Proofs

open Sys2Proof.Machine

/-- Settles O34: the four words of its row, and its effect in every state. -/
theorem nopOnlyAdvances : Obligations.NopOnlyAdvances :=
  ⟨fun _ hx => decode_nop hx, execNop_eq⟩

end Sys2Proof.Proofs
end

section
/-! SUPPORT and proofs for spec/60_exceptions.md: the interrupt entry (R206) and the watchdog reset
while running (R221). Each proof says which event the boundary takes, and then what that event
leaves. A bit that is 0 is written by OR alone; with it the values of nTO and nPD after a reset are
those of R46, whatever the reset. -/

namespace Sys2Proof.Machine

open Sys2Proof.Claims

/-! ### The interrupt entry -/

/-- R37, R206: GIE is bit 7. -/
theorem setBitTo_gie_false (v : Byte) : setBitTo v Config.bitGIE false = v &&& 0x7F#8 := rfl

/-- R205: no reset or time-out, awake and not just woken, GIE = 1 and a request: the entry. -/
theorem boundaryEvent_of_request {s : State} (hquiet : NoReset s) (hawake : s.asleep = false)
    (hrested : s.wokeUp = false) (hgie : s.gie = true) (hirq : s.input.irqPending = true) :
    s.boundaryEvent = .interruptEntry := by
  obtain ⟨hmclr, hwdt⟩ := hquiet
  have htimeout : (s.wdte && s.input.wdtTimeout) = false := by simpa using hwdt
  simp [State.boundaryEvent, hmclr, htimeout, hawake, hrested, hgie, hirq]

/-- There the step is the entry, with the boundary's sample used up. -/
theorem step_of_interruptEntry {s : State} (h : s.boundaryEvent = .interruptEntry) :
    step s = orFault s.passBoundary.takeInterrupt := by
  simp only [step, h]

/-! ### The watchdog reset -/

/-- R210, R221: a time-out of an enabled watchdog while awake, and no external reset. -/
theorem boundaryEvent_of_timeout_awake {s : State} (hmclr : s.input.mclr = false)
    (hwdte : s.wdte = true) (htimeout : s.input.wdtTimeout = true) (hawake : s.asleep = false) :
    s.boundaryEvent = .watchdogReset := by
  simp [State.boundaryEvent, hmclr, hwdte, htimeout, hawake]

/-- There the step is the reset, with the boundary's sample used up. -/
theorem step_of_watchdogReset {s : State} (h : s.boundaryEvent = .watchdogReset) :
    step s = .next s.watchdogReset.passBoundary := by
  simp only [step, h]

/-- A bit that is 0 is written by OR alone. -/
theorem setBitTo_of_clear {v : Byte} {i : Nat} (h : v.getLsbD i = false) (b : Bool) :
    setBitTo v i b = v ||| (if b then 1#8 <<< i else 0#8) := by
  cases b with
  | true => rfl
  | false =>
    refine BitVec.eq_of_getLsbD_eq fun j _ => ?_
    rw [setBitTo_getLsbD]
    split
    · next hj => simp [hj.1, h]
    · simp

/-- R46: STATUS after a reset keeps bits 2:0 and takes the given nTO and nPD. -/
theorem resetStatus_eq (v : Byte) (nTO nPD : Bool) :
    setBitTo (setBitTo (v &&& 0x07#8) Config.bitNTO nTO) Config.bitNPD nPD =
      (v &&& 0x07#8) ||| (if nTO then 0x10#8 else 0x00#8) |||
        (if nPD then 0x08#8 else 0x00#8) := by
  have hTO : (v &&& 0x07#8).getLsbD Config.bitNTO = false := by
    simp [Config.bitNTO]
  have hPD : (setBitTo (v &&& 0x07#8) Config.bitNTO nTO).getLsbD Config.bitNPD = false := by
    rw [setBitTo_getLsbD, if_neg (by decide)]
    simp [Config.bitNPD]
  rw [setBitTo_of_clear hPD, setBitTo_of_clear hTO]
  rfl

/-- R46, column "other resets": what a reset leaves, in every field the spec names. -/
theorem otherReset_sameMachine (s : State) (nTO nPD : Bool) :
    SameMachine (s.otherReset nTO nPD).passBoundary (afterReset s nTO nPD) := by
  simp only [SameMachine, State.passBoundary, State.otherReset, afterReset, resetStatus_eq,
    Config.resetVector]

end Sys2Proof.Machine

namespace Sys2Proof.Proofs

open Sys2Proof.Machine Sys2Proof.Claims

/-- Settles O44: the boundary takes the interrupt, and the return stack has room or is full. -/
theorem interruptEntry : Obligations.InterruptEntry := by
  intro s hquiet hawake hrested hgie hirq
  have hstep := step_of_interruptEntry (boundaryEvent_of_request hquiet hawake hrested hgie hirq)
  refine ⟨fun hroom => ?entered, fun hfull => ?overflow⟩
  case entered =>
    refine ⟨_, hstep.trans (congrArg orFault (takeInterrupt_of_lt s.passBoundary hroom)), ?_⟩
    simp only [SameMachine, State.passBoundary, setBitTo_gie_false, Config.interruptVector]
  case overflow =>
    exact hstep.trans (congrArg orFault (takeInterrupt_full s.passBoundary hfull))

/-- Settles O48: the boundary takes the watchdog reset, which is R46's reset with nTO 0, nPD 1. -/
theorem watchdogResetWhileRunning : Obligations.WatchdogResetWhileRunning := by
  intro s hmclr hwdte htimeout hawake
  have hevent := boundaryEvent_of_timeout_awake hmclr hwdte htimeout hawake
  exact ⟨_, step_of_watchdogReset hevent, otherReset_sameMachine s false true⟩

end Sys2Proof.Proofs
end

section
/-! SUPPORT and proof for spec/70_reset_and_hazards.md: where execution starts after a reset (R240).
An external and a watchdog reset are the same `otherReset` of R46 and differ only in the nTO and nPD
they leave, which neither the pc, GIE nor sleep depends on. -/

namespace Sys2Proof.Machine

/-- R37, R46: a reset keeps bit 0 of INTCON alone, so GIE is 0. -/
@[simp] theorem otherReset_gie (s : State) (nTO nPD : Bool) : (s.otherReset nTO nPD).gie = false := by
  simp [State.gie, Config.bitGIE]

@[simp] theorem passBoundary_gie (s : State) : s.passBoundary.gie = s.gie := rfl

/-- R46, R241: awake or asleep, an external reset is the shared reset with some nTO and nPD. -/
theorem externalReset_eq_otherReset (s : State) :
    ∃ nTO nPD, s.externalReset = s.otherReset nTO nPD := by
  unfold State.externalReset
  split
  · exact ⟨true, false, rfl⟩
  · exact ⟨s.nTO, s.nPD, rfl⟩

/-- At an external reset the step is the reset, with the boundary's sample used up. -/
theorem step_of_externalReset {s : State} (h : s.boundaryEvent = .externalReset) :
    step s = .next s.externalReset.passBoundary := by
  simp only [step, h]

/-- R46, column "other resets": either reset step is the shared reset with some nTO and nPD. -/
theorem step_of_reset {s : State}
    (h : s.boundaryEvent = .externalReset ∨ s.boundaryEvent = .watchdogReset) :
    ∃ nTO nPD, step s = .next (s.otherReset nTO nPD).passBoundary := by
  obtain hexternal | hwatchdog := h
  · obtain ⟨nTO, nPD, hreset⟩ := externalReset_eq_otherReset s
    exact ⟨nTO, nPD, hreset ▸ step_of_externalReset hexternal⟩
  · exact ⟨false, true, step_of_watchdogReset hwatchdog⟩

end Sys2Proof.Machine

namespace Sys2Proof.Proofs

open Sys2Proof.Machine Sys2Proof.Claims

/-- Settles O55: the power-on state by its fields, and the two reset steps by the reset they share. -/
theorem everyResetStartsAtZero : Obligations.EveryResetStartsAtZero := by
  refine ⟨⟨rfl, rfl, rfl⟩, fun s t hevent hstep => ?_⟩
  obtain ⟨nTO, nPD, hreset⟩ := step_of_reset hevent
  obtain rfl : (s.otherReset nTO nPD).passBoundary = t := by simpa [hreset] using hstep
  simp [Config.resetVector]

end Sys2Proof.Proofs
end

section
/-! SUPPORT. What an instruction can do when it completes, said once (`Effect`, `exec_effect`): one
case for each way the instructions of spec/40 to 44 change the state. The frames, the ways of the pc
and the invariant are read off it. -/

namespace Sys2Proof.Machine

open Sys2Proof.Claims

/-- R47: the flags written are among those the instruction lists. -/
structure ListsAtMost (i : Instr) (fl : FlagUpdate) : Prop where
  z : listsZFlag i = false → fl.z = none
  dc : listsDCFlag i = false → fl.dc = none
  c : listsCFlag i = false → fl.c = none

/-- R47: "Status Affected: None" is among the flags of every instruction. -/
theorem listsAtMost_noFlags (i : Instr) : ListsAtMost i noFlags :=
  ⟨fun _ => rfl, fun _ => rfl, fun _ => rfl⟩

/-- R172 to R176: the instructions that take their pc from a target or from the stack. -/
def transfersControl : Instr → Bool
  | .call _ | .goto _ | .retfie | .retlw _ | .ret => true
  | _ => false

/-- R171: the instructions that may skip. -/
def maySkip : Instr → Bool
  | .decfsz _ _ | .incfsz _ _ | .btfsc _ _ | .btfss _ _ => true
  | _ => false

/-- R23, R171: where an instruction that does not transfer control goes on. -/
structure GoesOnAt (i : Instr) (s : State) (n : ProgAddr) : Prop where
  noTransfer : transfersControl i = false
  nextOrSkip : n = s.next ∨ maySkip i = true ∧ n = s.next2

/-- The ways an instruction leaves a state `t` from `s`. -/
inductive Effect (s : State) : Instr → State → Prop where
  /-- The result goes to W, with the listed flags. -/
  | inW {i : Instr} {r : Byte} {fl : FlagUpdate} {n : ProgAddr} (hw : writesW i = true)
      (hdest : destFile i = none) (hfl : ListsAtMost i fl) (hn : GoesOnAt i s n) :
      Effect s i { s with w := r, status := applyFlags s.status fl, pc := n }
  /-- The result goes to data memory; only an instruction that cannot skip stores to PCL (R65). -/
  | stored {i : Instr} {t : State} {f : Nat} {r : Byte} {fl : FlagUpdate} {n : ProgAddr}
      (hdest : destFile i = some f) (hfl : ListsAtMost i fl) (hn : GoesOnAt i s n)
      (hpcl : regionOf (operandAddr s f) = .pcl → maySkip i = false)
      (hwrote : Wrote { s with pc := n } t (operandAddr s f) r fl) : Effect s i t
  /-- Only the pc moves: the bit tests, NOP, and SLEEP with a request pending. -/
  | pcOnly {i : Instr} {n : ProgAddr} (hdest : destFile i = none) (hn : GoesOnAt i s n) :
      Effect s i { s with pc := n }
  | call {k : Nat} (hroom : s.stack.length < Config.stackDepth) :
      Effect s (.call k) { s with
        stack := (s.pc + 1#13) :: s.stack
        pc := BitVec.ofNat 13 (2048 * (s.pclath.toNat / 8) + k) }
  | goto {k : Nat} :
      Effect s (.goto k) { s with pc := BitVec.ofNat 13 (2048 * (s.pclath.toNat / 8) + k) }
  | ret {v : ProgAddr} {rest : List ProgAddr} (hstack : s.stack = v :: rest) :
      Effect s .ret { s with pc := v, stack := rest }
  | retlw {k : Nat} {v : ProgAddr} {rest : List ProgAddr} (hstack : s.stack = v :: rest) :
      Effect s (.retlw k) { s with w := BitVec.ofNat 8 k, pc := v, stack := rest }
  | retfie {v : ProgAddr} {rest : List ProgAddr} (hstack : s.stack = v :: rest) :
      Effect s .retfie { s with
        pc := v, stack := rest, intcon := setBitTo s.intcon Config.bitGIE true }
  | clrwdt : Effect s .clrwdt { s.advance.setPowerBits true true with wdt := 0, wdtPrescaler := 0 }
  | sleep : Effect s .sleep { s.advance.setPowerBits true false with
      wdt := 0, wdtPrescaler := 0, asleep := true }

/-! ### Which effect each shape of instruction has -/

/-- R120: an instruction `f,d` that goes on at `next`. -/
theorem fileOp_effect {i : Nat → Nat → Instr} {f d : Nat} {alu : Byte → AluOut} {s t : State}
    (h : fileOp f d alu s = .next t) (hw : writesW (i f 0) = true)
    (hdestW : destFile (i f 0) = none) (hdestFile : destFile (i f 1) = some f)
    (hfl : ∀ d v, ListsAtMost (i f d) (alu v).flags)
    (hn : ∀ d, GoesOnAt (i f d) s s.next) (hskip : maySkip (i f 1) = false) :
    Effect s (i f d) t := by
  obtain ⟨v, -, -, ⟨rfl, rfl⟩ | ⟨rfl, hwrote⟩⟩ := fileOp_next h
  · exact .inW hw hdestW (hfl 0 v) (hn 0)
  · exact .stored hdestFile (hfl 1 v) (hn 1) (fun _ => hskip) hwrote

/-- R171: where a counting instruction goes on. -/
theorem skipTarget_goesOnAt {i : Instr} (s : State) (r : Byte) (hno : transfersControl i = false)
    (hskip : maySkip i = true) : GoesOnAt i s (skipTarget s r) := by
  refine ⟨hno, ?_⟩
  unfold skipTarget
  split
  · exact .inr ⟨hskip, rfl⟩
  · exact .inl rfl

/-- R127, R129: an instruction `f,d` that counts and may skip. -/
theorem fileSkipOp_effect {i : Nat → Nat → Instr} {f d : Nat} {g : Byte → Byte} {s t : State}
    (h : fileSkipOp f d g s = .next t) (hw : writesW (i f 0) = true)
    (hdestW : destFile (i f 0) = none) (hdestFile : destFile (i f 1) = some f)
    (hn : ∀ d r, GoesOnAt (i f d) s (skipTarget s r)) : Effect s (i f d) t := by
  obtain ⟨v, -, -, ⟨rfl, rfl⟩ | ⟨rfl, hpcl, hwrote⟩⟩ := fileSkipOp_next h
  · exact .inW hw hdestW (listsAtMost_noFlags _) (hn 0 _)
  · exact .stored hdestFile (listsAtMost_noFlags _) (hn 1 _) (fun hp => absurd hp hpcl) hwrote

/-- R124, R132: CLRF and MOVWF. -/
theorem fileStore_effect {i : Instr} {f : Nat} {out : AluOut} {s t : State}
    (h : fileStore f out s = .next t) (hdest : destFile i = some f)
    (hfl : ListsAtMost i out.flags) (hn : GoesOnAt i s s.next) (hskip : maySkip i = false) :
    Effect s i t :=
  .stored hdest hfl hn (fun _ => hskip) (fileStore_next h).2

/-- R151, R152: BCF and BSF. -/
theorem bitWriteOp_effect {i : Instr} {f b : Nat} {x : Bool} {s t : State}
    (h : bitWriteOp f b x s = .next t) (hdest : destFile i = some f)
    (hn : GoesOnAt i s s.next) (hskip : maySkip i = false) : Effect s i t := by
  obtain ⟨v, -, -, -, hwrote⟩ := bitWriteOp_next h
  exact .stored hdest (listsAtMost_noFlags i) hn (fun _ => hskip) hwrote

/-- R153, R154: BTFSC and BTFSS. -/
theorem bitSkipOp_effect {i : Instr} {f b : Nat} {x : Bool} {s t : State}
    (h : bitSkipOp f b x s = .next t) (hdest : destFile i = none)
    (hno : transfersControl i = false) (hskip : maySkip i = true) : Effect s i t := by
  obtain ⟨v, -, -, -, rfl⟩ := bitSkipOp_next h
  refine .pcOnly hdest ⟨hno, ?_⟩
  split
  · exact .inr ⟨hskip, rfl⟩
  · exact .inl rfl

/-- R160: the literal instructions. -/
theorem literalOp_effect {i : Instr} {k : Nat} {alu : Byte → AluOut} {s t : State}
    (h : literalOp k alu s = .next t) (hw : writesW i = true) (hdest : destFile i = none)
    (hfl : ∀ v, ListsAtMost i (alu v).flags) (hn : GoesOnAt i s s.next) : Effect s i t := by
  obtain ⟨-, rfl⟩ := literalOp_next h
  exact .inW hw hdest (hfl _) hn

/-- R172: what CALL does when it answers. -/
theorem execCall_effect {k : Nat} {s t : State} (h : execCall k s = .next t) :
    Effect s (.call k) t := by
  cases hk : targetOperand k with
  | none => simp [execCall, hk] at h
  | some v =>
    obtain ⟨hlt, -⟩ := targetOperand_some hk
    rcases Nat.lt_or_ge s.stack.length Config.stackDepth with hroom | hfull
    · rw [execCall_of_room hlt hroom] at h
      cases h
      exact .call hroom
    · rw [execCall_full hlt hfull] at h
      cases h

/-- R173: what GOTO does when it answers. -/
theorem execGoto_effect {k : Nat} {s t : State} (h : execGoto k s = .next t) :
    Effect s (.goto k) t := by
  cases hk : targetOperand k with
  | none => simp [execGoto, hk] at h
  | some v =>
    rw [execGoto_of_lt s (targetOperand_some hk).1] at h
    cases h
    exact .goto

/-- R175: what RETLW does when it answers. -/
theorem execRetlw_effect {k : Nat} {s t : State} (h : execRetlw k s = .next t) :
    Effect s (.retlw k) t := by
  cases hk : literalOperand k with
  | none => simp [execRetlw, hk] at h
  | some w =>
    obtain ⟨-, rfl⟩ := literalOperand_some hk
    simp only [execRetlw, hk, orFault_next] at h
    obtain ⟨v, rest, hstack, rfl⟩ := popPc_ok h
    exact .retlw hstack

/-- R192: what SLEEP does. -/
theorem execSleep_effect {s t : State} (h : execSleep s = .next t) : Effect s .sleep t := by
  unfold execSleep at h
  split at h
  · cases h
    exact .pcOnly rfl ⟨rfl, .inl rfl⟩
  · cases h
    exact .sleep

/-- Every instruction that completes has one of the effects. -/
theorem exec_effect {i : Instr} {s t : State} (h : exec i s = .next t) : Effect s i t := by
  cases i with
  | addwf f d | subwf f d =>
    exact fileOp_effect h rfl rfl rfl (fun _ _ => ⟨nofun, nofun, nofun⟩)
      (fun _ => ⟨rfl, .inl rfl⟩) rfl
  | andwf f d | comf f d | decf f d | incf f d | iorwf f d | movf f d | xorwf f d =>
    exact fileOp_effect h rfl rfl rfl (fun _ _ => ⟨nofun, fun _ => rfl, fun _ => rfl⟩)
      (fun _ => ⟨rfl, .inl rfl⟩) rfl
  | rlf f d | rrf f d =>
    exact fileOp_effect h rfl rfl rfl (fun _ _ => ⟨fun _ => rfl, fun _ => rfl, nofun⟩)
      (fun _ => ⟨rfl, .inl rfl⟩) rfl
  | swapf f d =>
    exact fileOp_effect h rfl rfl rfl (fun _ _ => listsAtMost_noFlags _)
      (fun _ => ⟨rfl, .inl rfl⟩) rfl
  | decfsz f d | incfsz f d =>
    exact fileSkipOp_effect h rfl rfl rfl fun _ r => skipTarget_goesOnAt s r rfl rfl
  | clrf f =>
    exact fileStore_effect h rfl ⟨nofun, fun _ => rfl, fun _ => rfl⟩ ⟨rfl, .inl rfl⟩ rfl
  | movwf f => exact fileStore_effect h rfl (listsAtMost_noFlags _) ⟨rfl, .inl rfl⟩ rfl
  | bcf f b | bsf f b => exact bitWriteOp_effect h rfl ⟨rfl, .inl rfl⟩ rfl
  | btfsc f b | btfss f b => exact bitSkipOp_effect h rfl rfl rfl
  | addlw k | sublw k =>
    exact literalOp_effect h rfl rfl (fun _ => ⟨nofun, nofun, nofun⟩) ⟨rfl, .inl rfl⟩
  | andlw k | iorlw k | xorlw k =>
    exact literalOp_effect h rfl rfl (fun _ => ⟨nofun, fun _ => rfl, fun _ => rfl⟩) ⟨rfl, .inl rfl⟩
  | movlw k =>
    exact literalOp_effect h rfl rfl (fun _ => listsAtMost_noFlags _) ⟨rfl, .inl rfl⟩
  | call k => exact execCall_effect h
  | goto k => exact execGoto_effect h
  | retlw k => exact execRetlw_effect h
  | sleep => exact execSleep_effect h
  | clrw =>
    cases h
    exact .inW (fl := { z := some true }) (n := s.next) rfl rfl
      ⟨nofun, fun _ => rfl, fun _ => rfl⟩ ⟨rfl, .inl rfl⟩
  | nop =>
    cases h
    exact .pcOnly rfl ⟨rfl, .inl rfl⟩
  | clrwdt =>
    cases h
    exact .clrwdt
  | ret =>
    obtain ⟨v, rest, hstack, rfl⟩ := popPc_ok (orFault_next.1 h)
    exact .ret hstack
  | retfie =>
    obtain ⟨v, rest, hstack, rfl⟩ := returnFromInterrupt_ok (orFault_next.1 h)
    exact .retfie hstack

end Sys2Proof.Machine
end

section
/-! SUPPORT and proofs for spec/10_state.md and spec/20_memory.md: what no instruction changes (R31,
R47, R63, R79) and where the pc goes (R23, R170). Each clause is one lemma about `Effect`. -/

namespace Sys2Proof.Machine

open Sys2Proof.Claims

/-- What stands where an instruction with the destination `f` stores. -/
theorem storedRegion_of_destFile {i : Instr} {f : Nat} (s : State) (h : destFile i = some f) :
    storedRegion i s = some (regionOf (operandAddr s f)) := by
  simp only [storedRegion, h, Option.map_some]

/-! ### STATUS -/

/-- R47: the listed flags are written and STATUS is otherwise kept. -/
theorem flagsKept_of_listsAtMost {i : Instr} {s t : State} {fl : FlagUpdate} (hfl : ListsAtMost i fl)
    (h : t.status = applyFlags s.status fl) :
    (listsZFlag i = false → t.flagZ = s.flagZ) ∧ (listsDCFlag i = false → t.flagDC = s.flagDC) ∧
    (listsCFlag i = false → t.flagC = s.flagC) ∧
    t.status.extractLsb' 5 3 = s.status.extractLsb' 5 3 := by
  obtain ⟨hz, hdc, hc, -⟩ := flagsListed_of_applyFlags h
  refine ⟨fun hi => ?_, fun hi => ?_, fun hi => ?_, ?bank⟩
  · rw [hz, hfl.z hi, Option.getD_none]
  · rw [hdc, hfl.dc hi, Option.getD_none]
  · rw [hc, hfl.c hi, Option.getD_none]
  case bank =>
    ext j hj
    simp only [BitVec.getElem_extractLsb', h]
    exact applyFlags_high _ _ _ (by omega)

/-- R31, R32: writing nTO and nPD leaves the other six bits of STATUS. -/
theorem setPowerBits_status_getLsbD (s : State) (nTO nPD : Bool) {j : Nat}
    (hTO : j ≠ Config.bitNTO) (hPD : j ≠ Config.bitNPD) :
    (s.setPowerBits nTO nPD).status.getLsbD j = s.status.getLsbD j := by
  rw [setPowerBits_status, setBitTo_getLsbD, if_neg (fun h => hPD h.1), setBitTo_getLsbD,
    if_neg (fun h => hTO h.1)]

/-- R47, R190, R192: CLRWDT and SLEEP keep the flags and the bank bits. -/
theorem setPowerBits_flagsKept (s : State) (nTO nPD : Bool) :
    (s.setPowerBits nTO nPD).flagZ = s.flagZ ∧ (s.setPowerBits nTO nPD).flagDC = s.flagDC ∧
    (s.setPowerBits nTO nPD).flagC = s.flagC ∧
    (s.setPowerBits nTO nPD).status.extractLsb' 5 3 = s.status.extractLsb' 5 3 := by
  have hbit {j : Nat} (hTO : j ≠ Config.bitNTO) (hPD : j ≠ Config.bitNPD) :=
    setPowerBits_status_getLsbD s nTO nPD hTO hPD
  refine ⟨hbit (by decide) (by decide), hbit (by decide) (by decide),
    hbit (by decide) (by decide), ?bank⟩
  case bank =>
    ext j hj
    simp only [BitVec.getElem_extractLsb']
    exact hbit (by simp only [Config.bitNTO]; omega) (by simp only [Config.bitNPD]; omega)

/-- R35: a byte written to STATUS leaves nTO and nPD. -/
theorem writeStatus_power (st v : Byte) (fl : FlagUpdate) :
    (writeStatus st v fl).getLsbD Config.bitNTO = st.getLsbD Config.bitNTO ∧
    (writeStatus st v fl).getLsbD Config.bitNPD = st.getLsbD Config.bitNPD := by
  simp only [writeStatus_getLsbD]
  exact ⟨rfl, rfl⟩

/-- R31, R32: the listed flags leave nTO and nPD. -/
theorem applyFlags_power (st : Byte) (fl : FlagUpdate) :
    (applyFlags st fl).getLsbD Config.bitNTO = st.getLsbD Config.bitNTO ∧
    (applyFlags st fl).getLsbD Config.bitNPD = st.getLsbD Config.bitNPD :=
  ⟨applyFlags_high _ _ _ (by decide), applyFlags_high _ _ _ (by decide)⟩

/-! ### Registers, the stack and the model's other fields -/

namespace Effect

variable {i : Instr} {s t : State}

/-- R20. -/
theorem w_eq (h : Effect s i t) (hw : writesW i = false) : t.w = s.w := by
  cases h with
  | inW hw' => exact absurd (hw.symm.trans hw') (by decide)
  | retlw => cases hw
  | stored _ _ _ _ hwrote => exact (wrote_keeps hwrote).1
  | _ => rfl

/-- R36, R62. -/
theorem fsr_eq (h : Effect s i t) (hs : storedRegion i s ≠ some .fsr) : t.fsr = s.fsr := by
  cases h with
  | stored hdest _ _ _ hwrote =>
    rw [storedRegion_of_destFile s hdest] at hs
    exact hwrote.notFsr fun hr => hs (congrArg some hr)
  | _ => rfl

/-- R25. -/
theorem pclath_eq (h : Effect s i t) (hs : storedRegion i s ≠ some .pclath) :
    t.pclath = s.pclath := by
  cases h with
  | stored hdest _ _ _ hwrote =>
    rw [storedRegion_of_destFile s hdest] at hs
    exact hwrote.notPclath fun hr => hs (congrArg some hr)
  | _ => rfl

/-- R204: RETFIE sets GIE. -/
theorem intcon_eq (h : Effect s i t) (hs : storedRegion i s ≠ some .intcon) (hi : i ≠ .retfie) :
    t.intcon = s.intcon := by
  cases h with
  | retfie => exact absurd rfl hi
  | stored hdest _ _ _ hwrote =>
    rw [storedRegion_of_destFile s hdest] at hs
    exact hwrote.notIntcon fun hr => hs (congrArg some hr)
  | _ => rfl

/-- R38. -/
theorem stack_eq (h : Effect s i t) (hcall : ∀ k, i ≠ .call k) (hretlw : ∀ k, i ≠ .retlw k)
    (hret : i ≠ .ret) (hretfie : i ≠ .retfie) : t.stack = s.stack := by
  cases h with
  | call => exact absurd rfl (hcall _)
  | retlw => exact absurd rfl (hretlw _)
  | ret => exact absurd rfl hret
  | retfie => exact absurd rfl hretfie
  | stored _ _ _ _ hwrote => exact (wrote_keeps hwrote).2.1
  | _ => rfl

/-- R39, R40: no instruction makes the stack deeper than it may be. -/
theorem stack_length_le (h : Effect s i t) (hs : s.stack.length ≤ Config.stackDepth) :
    t.stack.length ≤ Config.stackDepth := by
  cases h with
  | call hroom => exact hroom
  | ret hstack | retlw hstack | retfie hstack =>
    rw [hstack] at hs
    exact Nat.le_of_succ_le hs
  | stored _ _ _ _ hwrote =>
    obtain ⟨-, hstack, -⟩ := wrote_keeps hwrote
    rwa [hstack]
  | _ => exact hs

/-- R43. -/
theorem watchdog_eq (h : Effect s i t) (hclrwdt : i ≠ .clrwdt) (hsleep : i ≠ .sleep) :
    t.wdt = s.wdt ∧ t.wdtPrescaler = s.wdtPrescaler := by
  cases h with
  | clrwdt => exact absurd rfl hclrwdt
  | sleep => exact absurd rfl hsleep
  | stored _ _ _ _ hwrote =>
    obtain ⟨-, -, -, hwdt, hprescaler, -⟩ := wrote_keeps hwrote
    exact ⟨hwdt, hprescaler⟩
  | _ => exact ⟨rfl, rfl⟩

/-- R44. -/
theorem asleep_eq (h : Effect s i t) (hsleep : i ≠ .sleep) : t.asleep = s.asleep := by
  cases h with
  | sleep => exact absurd rfl hsleep
  | stored _ _ _ _ hwrote =>
    obtain ⟨-, -, -, -, -, hasleep, -⟩ := wrote_keeps hwrote
    exact hasleep
  | _ => rfl

/-- R79, logs 6, 7 and 10: the fields no instruction writes. -/
theorem fixed (h : Effect s i t) :
    t.prog = s.prog ∧ t.wdte = s.wdte ∧ t.wokeUp = s.wokeUp ∧ t.inputs = s.inputs := by
  cases h with
  | stored _ _ _ _ hwrote =>
    obtain ⟨-, -, hprog, -, -, -, hwdte, hwokeUp, hinputs⟩ := wrote_keeps hwrote
    exact ⟨hprog, hwdte, hwokeUp, hinputs⟩
  | _ => exact ⟨rfl, rfl, rfl, rfl⟩

/-! ### RAM -/

/-- R63, R73: RAM is kept, or one storage cell is written. -/
theorem ram_eq_or_write (h : Effect s i t) :
    t.ram = s.ram ∨
      ∃ cell v, storedRegion i s = some (.ram cell) ∧ t.ram = s.ram.write cell v := by
  cases h with
  | @stored _ _ f r _ _ hdest _ _ _ hwrote =>
    by_cases hr : ∃ cell, regionOf (operandAddr s f) = .ram cell
    · obtain ⟨cell, hr⟩ := hr
      exact .inr ⟨cell, r, by rw [storedRegion_of_destFile s hdest, hr], hwrote.ram cell hr⟩
    · exact .inl (hwrote.notRam fun cell hcell => hr ⟨cell, hcell⟩)
  | _ => exact .inl rfl

/-! ### nTO and nPD -/

/-- R31, R32, R35. -/
theorem powerBits_eq (h : Effect s i t) (hclrwdt : i ≠ .clrwdt) (hsleep : i ≠ .sleep) :
    t.nTO = s.nTO ∧ t.nPD = s.nPD := by
  cases h with
  | clrwdt => exact absurd rfl hclrwdt
  | sleep => exact absurd rfl hsleep
  | inW => exact applyFlags_power _ _
  | @stored _ _ f _ _ _ _ _ _ _ hwrote =>
    unfold State.nTO State.nPD
    by_cases hr : regionOf (operandAddr s f) = .status
    · rw [hwrote.status hr]
      exact writeStatus_power _ _ _
    · rw [hwrote.notStatus hr]
      exact applyFlags_power _ _
  | _ => exact ⟨rfl, rfl⟩

/-! ### The pc -/

/-- R23, R24, R170: after an instruction that does not transfer control the pc is where it goes on,
unless it stored to PCL, which no skip instruction does. -/
theorem pc_of_noTransfer (h : Effect s i t) (hno : transfersControl i = false) :
    (storedRegion i s = some .pcl ∧ maySkip i = false ∧ t.pc.toNat / 256 = s.pclath.toNat) ∨
    (storedRegion i s ≠ some .pcl ∧ GoesOnAt i s t.pc) := by
  have hnone (hdest : destFile i = none) : storedRegion i s ≠ some .pcl := by
    simp [storedRegion, hdest]
  cases h with
  | inW _ hdest _ hn | pcOnly hdest hn => exact .inr ⟨hnone hdest, hn⟩
  | @stored _ _ f r _ _ hdest _ hn hpcl hwrote =>
    rw [storedRegion_of_destFile s hdest]
    by_cases hr : regionOf (operandAddr s f) = .pcl
    · refine .inl ⟨congrArg some hr, hpcl hr, ?_⟩
      have hlow := r.isLt
      have hpc : t.pc.toNat = 2 ^ 8 * s.pclath.toNat + r.toNat := by
        rw [hwrote.pcl hr]
        exact toNat_append_eq_add _ _
      omega
    · exact .inr ⟨fun h => hr (Option.some.inj h), (hwrote.notPcl hr).symm ▸ hn⟩
  | clrwdt | sleep => exact .inr ⟨hnone rfl, rfl, .inl rfl⟩
  | call | goto | ret | retlw | retfie => cases hno

/-- R171: after a skip instruction. -/
theorem pc_of_maySkip (h : Effect s i t) (hno : transfersControl i = false)
    (hskip : maySkip i = true) : t.pc = s.pc + 1#13 ∨ t.pc = s.pc + 2#13 := by
  obtain ⟨-, hnot, -⟩ | ⟨-, -, hn⟩ := h.pc_of_noTransfer hno
  · exact absurd (hskip.symm.trans hnot) (by decide)
  · exact hn.imp id (·.2)

/-- R23, R24: after an instruction that neither transfers control nor may skip. -/
theorem pc_of_straight (h : Effect s i t) (hno : transfersControl i = false)
    (hskip : maySkip i = false) :
    if storedRegion i s = some .pcl then t.pc.toNat / 256 = s.pclath.toNat
    else t.pc = s.pc + 1#13 := by
  obtain ⟨hpcl, -, hblock⟩ | ⟨hpcl, -, hn⟩ := h.pc_of_noTransfer hno
  · rwa [if_pos hpcl]
  · rw [if_neg hpcl]
    exact hn.resolve_right fun hs => absurd (hskip.symm.trans hs.1) (by decide)

end Effect

end Sys2Proof.Machine

namespace Sys2Proof.Proofs

open Sys2Proof.Machine Sys2Proof.Claims

/-- Settles O38: the flags written are among those listed; CLRWDT and SLEEP write none of them. -/
theorem unlistedFlagsKept : Obligations.UnlistedFlagsKept := by
  intro i s t h hs
  cases exec_effect h with
  | inW _ _ hfl => exact flagsKept_of_listsAtMost hfl rfl
  | stored hdest hfl _ _ hwrote =>
    rw [storedRegion_of_destFile s hdest] at hs
    exact flagsKept_of_listsAtMost hfl (hwrote.notStatus fun hr => hs (congrArg some hr))
  | clrwdt | sleep =>
    obtain ⟨hz, hdc, hc, hbank⟩ := setPowerBits_flagsKept s.advance _ _
    exact ⟨fun _ => hz, fun _ => hdc, fun _ => hc, hbank⟩
  | _ => exact flagsKept_of_listsAtMost (listsAtMost_noFlags _) rfl

/-- Settles O39: STATUS takes listed flags or, as a destination, the byte of R35. -/
theorem powerBitsKept : Obligations.PowerBitsKept :=
  fun _ _ _ h hclrwdt hsleep => (exec_effect h).powerBits_eq hclrwdt hsleep

/-- Settles O40: each clause is the frame of one register or field. -/
theorem registerFrame : Obligations.RegisterFrame := by
  intro i s t h
  have heffect := exec_effect h
  exact ⟨heffect.w_eq, heffect.fsr_eq, heffect.pclath_eq, heffect.intcon_eq, heffect.stack_eq,
    heffect.watchdog_eq, heffect.asleep_eq, heffect.fixed⟩

/-- Settles O41: at most the one cell stored to is written. -/
theorem ramFrame : Obligations.RamFrame := by
  intro i s t hwf h n hn
  obtain hram | ⟨cell, v, hcell, hram⟩ := (exec_effect h).ram_eq_or_write
  · rw [hram]
  · rw [hram]
    exact read_write_other _ _ _ _ hwf fun hnc => hn (hnc ▸ hcell)

/-- Settles O42: the transfers by their own effects, the others by whether they may skip. -/
theorem waysOfThePc : Obligations.WaysOfThePc := by
  intro i s t h
  have heffect := exec_effect h
  cases i with
  | call k | goto k =>
    cases heffect with
    | inW _ _ _ hn | stored _ _ hn | pcOnly _ hn => cases hn.noTransfer
    | _ => rfl
  | retfie | retlw k | ret =>
    cases heffect with
    | inW _ _ _ hn | stored _ _ hn | pcOnly _ hn => cases hn.noTransfer
    | _ => exact congrArg List.head? ‹s.stack = _ :: _›
  | decfsz f d | incfsz f d | btfsc f b | btfss f b => exact heffect.pc_of_maySkip rfl rfl
  | _ => exact heffect.pc_of_straight rfl rfl

end Sys2Proof.Proofs
end

section
/-! SUPPORT and proofs for the invariant and for runs (spec/10_state.md, spec/60_exceptions.md
section 5): one lemma for each kind of step, by `step_next` and, for an instruction, by `Effect`. -/

namespace Sys2Proof.Machine

open Sys2Proof.Claims

/-! ### What a boundary's event says of the state -/

/-- R193: a sleeping core takes no interrupt and executes nothing. -/
theorem awake_of_boundaryEvent {s : State}
    (h : s.boundaryEvent = .interruptEntry ∨ s.boundaryEvent = .instruction) :
    s.asleep = false := by
  unfold State.boundaryEvent at h
  split_ifs at h <;> simp_all

/-- R222, R227: only a sleeping core wakes. -/
theorem asleep_of_boundaryEvent {s : State}
    (h : s.boundaryEvent = .watchdogWake ∨ s.boundaryEvent = .interruptWake) :
    s.asleep = true := by
  unfold State.boundaryEvent at h
  split_ifs at h <;> simp_all

/-- R204: an interrupt is taken only with GIE = 1. -/
theorem gie_of_boundaryEvent {s : State} (h : s.boundaryEvent = .interruptEntry) :
    s.gie = true := by
  unfold State.boundaryEvent at h
  split_ifs at h
  simp_all

/-! ### The invariant after each kind of step -/

/-- The invariant of a state that is awake, with the memories of `s`. -/
theorem inv_of_awake {s t : State} (hs : s.Inv) (hram : t.ram = s.ram) (hprog : t.prog = s.prog)
    (hstack : t.stack.length ≤ Config.stackDepth) (hawake : t.asleep = false)
    (hwoken : t.wokeUp = true → t.nPD = false) : t.Inv where
  ramCanonical := hram ▸ hs.ramCanonical
  ramCells := hram ▸ hs.ramCells
  progCanonical := hprog ▸ hs.progCanonical
  stackDepth := hstack
  sleepBits := fun hasleep => absurd (hawake.symm.trans hasleep) Bool.false_ne_true
  wokenAwake := fun hwokeUp => ⟨hawake, hwoken hwokeUp⟩

/-- R46: after a reset the stack is empty and the core awake. -/
theorem otherReset_inv {s : State} (hs : s.Inv) (nTO nPD : Bool) :
    (s.otherReset nTO nPD).passBoundary.Inv :=
  inv_of_awake hs rfl rfl (Nat.zero_le _) rfl nofun

/-- R222: a watchdog wake-up leaves nPD as sleep had it. -/
theorem watchdogWake_inv {s : State} (hs : s.Inv) (hasleep : s.asleep = true) :
    s.watchdogWake.passBoundary.Inv := by
  refine inv_of_awake hs rfl rfl hs.stackDepth rfl fun _ => ?_
  rw [State.nPD, passBoundary_status, watchdogWake_status, setBitTo_getLsbD, if_neg (by decide)]
  exact (hs.sleepBits hasleep).2

/-- R227: a wake-up by a request leaves STATUS. -/
theorem interruptWake_inv {s : State} (hs : s.Inv) (hasleep : s.asleep = true) :
    s.interruptWake.passBoundary.Inv :=
  inv_of_awake hs rfl rfl hs.stackDepth rfl fun _ => (hs.sleepBits hasleep).2

/-- R193: a boundary asleep changes the watchdog counters and the samples only. -/
theorem elapse_inv {s : State} (hs : s.Inv) : s.elapse.passBoundary.Inv := by
  constructor <;> simp only [State.nTO, State.nPD, passBoundary_ram, passBoundary_prog,
    passBoundary_stack, passBoundary_status, passBoundary_asleep, passBoundary_wokeUp, elapse_ram,
    elapse_prog, elapse_stack, elapse_status, elapse_asleep, elapse_wokeUp]
  exacts [hs.ramCanonical, hs.ramCells, hs.progCanonical, hs.stackDepth, hs.sleepBits, hs.wokenAwake]

/-- R206: an interrupt entry that answers had room on the stack. -/
theorem takeInterrupt_inv {s t : State} (hs : s.Inv) (hawake : s.asleep = false)
    (h : s.passBoundary.takeInterrupt = .ok t) : t.Inv := by
  obtain ⟨hroom, rfl⟩ := takeInterrupt_ok h
  exact inv_of_awake hs rfl rfl hroom hawake fun hwokeUp => (hs.wokenAwake hwokeUp).2

namespace Effect

variable {i : Instr} {s t : State}

/-- R66, R67: RAM stays canonical and at its storage cells. -/
theorem ram_inv (h : Effect s i t) (hs : s.Inv) :
    t.ram.wf ∧ ∀ c ∈ t.ram, isStorageCell c.1 = true := by
  obtain hram | ⟨cell, v, hcell, hram⟩ := h.ram_eq_or_write
  · exact hram ▸ ⟨hs.ramCanonical, hs.ramCells⟩
  · obtain ⟨f, -, hregion⟩ := Option.map_eq_some_iff.1 hcell
    have hstorage := (isStorageCell_iff_exists_regionOf cell).2 ⟨_, hregion⟩
    rw [hram]
    refine ⟨write_wf _ _ _ hs.ramCanonical, fun c hc => ?_⟩
    obtain hold | rfl := mem_write _ _ _ _ hc
    · exact hs.ramCells c hold
    · exact hstorage

/-- R192: an instruction that leaves the core asleep is SLEEP, which writes nTO 1 and nPD 0. -/
theorem sleepBits (h : Effect s i t) (hawake : s.asleep = false) (hasleep : t.asleep = true) :
    t.nTO = true ∧ t.nPD = false := by
  obtain rfl : i = .sleep := by
    by_contra hi
    rw [h.asleep_eq hi, hawake] at hasleep
    cases hasleep
  cases h with
  | sleep =>
    simp only [State.nTO, State.nPD, setPowerBits_status, setBitTo_getLsbD]
    exact ⟨rfl, rfl⟩
  | pcOnly => exact absurd (hawake.symm.trans hasleep) Bool.false_ne_true
  | inW hw => cases hw
  | stored hdest => cases hdest

/-- The invariant after an instruction has completed and retired. -/
theorem retire_inv (h : Effect s i t) (hs : s.Inv) (hawake : s.asleep = false) :
    t.retire.Inv where
  ramCanonical := by simpa using (h.ram_inv hs).1
  ramCells := by simpa using (h.ram_inv hs).2
  progCanonical := by
    obtain ⟨hprog, -⟩ := h.fixed
    simpa [hprog] using hs.progCanonical
  stackDepth := by simpa using h.stack_length_le hs.stackDepth
  sleepBits := by simpa [State.nTO, State.nPD] using h.sleepBits hawake
  wokenAwake := nofun

end Effect

/-! ### The program, WDTE and the samples over a step -/

/-- R79, R220, logs 6 and 7: no step changes the program or WDTE, and each uses up one sample. -/
theorem step_fixed {s t : State} (h : step s = .next t) :
    t.prog = s.prog ∧ t.wdte = s.wdte ∧ t.inputs = s.inputs.tail := by
  obtain ⟨-, rfl⟩ | ⟨-, rfl⟩ | ⟨-, rfl⟩ | ⟨-, rfl⟩ | ⟨-, rfl⟩ | ⟨-, hentry⟩ | ⟨-, i, u, -, hexec, rfl⟩ :=
    step_next h
  · obtain ⟨nTO, nPD, hreset⟩ := externalReset_eq_otherReset s
    rw [hreset]
    exact ⟨rfl, rfl, rfl⟩
  · exact ⟨rfl, rfl, rfl⟩
  · exact ⟨rfl, rfl, rfl⟩
  · exact ⟨rfl, rfl, rfl⟩
  · simp
  · obtain ⟨-, rfl⟩ := takeInterrupt_ok hentry
    exact ⟨rfl, rfl, rfl⟩
  · obtain ⟨hprog, hwdte, -, hinputs⟩ := (exec_effect hexec).fixed
    simp [hprog, hwdte, hinputs]

/-- At a watchdog wake-up the step is the wake-up, with the boundary's sample used up. -/
theorem step_of_watchdogWake {s : State} (h : s.boundaryEvent = .watchdogWake) :
    step s = .next s.watchdogWake.passBoundary := by
  simp only [step, h]

/-- At a wake-up by a request the step is the wake-up, with the boundary's sample used up. -/
theorem step_of_interruptWake {s : State} (h : s.boundaryEvent = .interruptWake) :
    step s = .next s.interruptWake.passBoundary := by
  simp only [step, h]

/-- Where the boundary's event is the instruction, the step is its run. -/
theorem step_of_instruction {s : State} (h : s.boundaryEvent = .instruction) :
    step s = runInstruction s := by
  simp only [step, h]

/-- Log 10: a completed instruction ends the exemption after a wake-up. -/
theorem runInstruction_wokeUp {s t : State} (h : runInstruction s = .next t) :
    t.wokeUp = false := by
  obtain ⟨i, u, -, -, rfl⟩ := runInstruction_next h
  exact retire_wokeUp u

/-! ### Runs -/

/-- A run of one step more is a step and then the run. -/
theorem run_succ_next {n : Nat} {s t : State} (h : core.run (n + 1) s = .next t) :
    ∃ u, step s = .next u ∧ core.run n u = .next t := by
  simp only [Host.Core.run] at h
  split at h
  · next u hu => exact ⟨u, hu, h⟩
  · cases h
  · cases h

end Sys2Proof.Machine

namespace Sys2Proof.Proofs

open Sys2Proof.Machine Sys2Proof.Claims

/-- Settles O57: the invariant after each kind of step. -/
theorem stepKeepsInv : Obligations.StepKeepsInv := by
  intro s t hs h
  obtain ⟨-, rfl⟩ | ⟨-, rfl⟩ | ⟨hevent, rfl⟩ | ⟨hevent, rfl⟩ | ⟨-, rfl⟩ | ⟨hevent, hentry⟩ |
    ⟨hevent, i, u, -, hexec, rfl⟩ := step_next h
  · obtain ⟨nTO, nPD, hreset⟩ := externalReset_eq_otherReset s
    exact hreset ▸ otherReset_inv hs nTO nPD
  · exact otherReset_inv hs false true
  · exact watchdogWake_inv hs (asleep_of_boundaryEvent (.inl hevent))
  · exact interruptWake_inv hs (asleep_of_boundaryEvent (.inr hevent))
  · exact elapse_inv hs
  · exact takeInterrupt_inv hs (awake_of_boundaryEvent (.inl hevent)) hentry
  · exact (exec_effect hexec).retire_inv hs (awake_of_boundaryEvent (.inr hevent))

/-- Settles O58, by induction on the number of steps. -/
theorem runKeepsInvAndProgram : Obligations.RunKeepsInvAndProgram := by
  intro n
  induction n with
  | zero =>
    intro s t hs h
    obtain rfl : s = t := Host.Outcome.next.inj h
    exact ⟨hs, rfl, rfl⟩
  | succ n ih =>
    intro s t hs h
    obtain ⟨u, hstep, hrun⟩ := run_succ_next h
    obtain ⟨hprog, hwdte, -⟩ := step_fixed hstep
    obtain ⟨hinv, hprog', hwdte'⟩ := ih u t (stepKeepsInv s u hs hstep) hrun
    exact ⟨hinv, hprog'.trans hprog, hwdte'.trans hwdte⟩

/-- Settles O53: the mark is set by the wake-ups and cleared by a reset and at an instruction's
retirement. -/
theorem everyStepUsesOneSample : Obligations.EveryStepUsesOneSample := by
  intro s t h
  obtain ⟨-, -, hinputs⟩ := step_fixed h
  refine ⟨hinputs, fun hwake => ?woken, fun hevent => ?cleared⟩
  case woken =>
    obtain hevent | hevent := hwake
    · obtain rfl := Host.Outcome.next.inj ((step_of_watchdogWake hevent).symm.trans h)
      rfl
    · obtain rfl := Host.Outcome.next.inj ((step_of_interruptWake hevent).symm.trans h)
      rfl
  case cleared =>
    obtain hevent | hreset := hevent
    · exact runInstruction_wokeUp ((step_of_instruction hevent).symm.trans h)
    · obtain ⟨nTO, nPD, hstep⟩ := step_of_reset hreset.symm
      obtain rfl := Host.Outcome.next.inj (hstep.symm.trans h)
      rfl

end Sys2Proof.Proofs
end

section
/-! SUPPORT and proofs for spec/30_encoding.md: the other direction of the round trip (R99, R101). A
word that decodes spells the row of its instruction, and the operands are the fields of the word, so
encoding it again puts the word together from the parts its row reads. -/

namespace Sys2Proof

open Sys2Proof.Laws Sys2Proof.Claims

/-! ### What a word that decodes spells -/

/-- R97: the operands of the instruction are the fields of the word. -/
def OperandsFrom (w : CodeWord) : Instr → Prop
  | .addwf f d | .andwf f d | .comf f d | .decf f d | .decfsz f d | .incf f d | .incfsz f d
  | .iorwf f d | .movf f d | .rlf f d | .rrf f d | .subwf f d | .swapf f d | .xorwf f d =>
    f = fieldF w ∧ d = fieldD w
  | .bcf f b | .bsf f b | .btfsc f b | .btfss f b => f = fieldF w ∧ b = fieldB w
  | .clrf f | .movwf f => f = fieldF w
  | .addlw k | .andlw k | .iorlw k | .movlw k | .retlw k | .sublw k | .xorlw k => k = fieldK8 w
  | .call k | .goto k => k = fieldK11 w
  | .clrw | .nop | .clrwdt | .retfie | .ret | .sleep => True

/-- R98: each row builds its own instruction from the fields of the word. -/
theorem opcodeRow_build : ∀ r ∈ opcodeTable, ∀ w : CodeWord,
    rowOf (r.build w) = (r.mask, r.pattern) ∧ OperandsFrom w (r.build w) := by
  simp [opcodeTable, byteRows, bitRows, literalRows, rowOf, OperandsFrom]

/-- R101: a word that decodes spells the row of its instruction, with its fields as operands. -/
theorem row_of_decode {w : CodeWord} {i : Instr} (h : decode w = .ok i) :
    w &&& (rowOf i).1 = (rowOf i).2 ∧ OperandsFrom w i := by
  unfold decode at h
  split at h
  · next r hfind =>
    obtain rfl : r.build w = i := by simpa using h
    obtain ⟨hrow, hoperands⟩ := opcodeRow_build r (List.mem_of_find?_eq_some hfind) w
    have hspelled := List.find?_some (p := fun r : OpcodeRow => r.matchesWord w) hfind
    rw [hrow]
    exact ⟨matchesWord_iff.1 hspelled, hoperands⟩
  · cases h

/-! ### A word put together from its parts -/

/-- R97: a field placed where it was read is the word under the field's mask. -/
theorem placedField_eq_and (w : CodeWord) (s n : Nat) :
    (BitVec.ofNat n (w.extractLsb' s n).toNat).setWidth 14 <<< s =
      w &&& ((BitVec.allOnes n).setWidth 14 <<< s) := by
  rw [BitVec.ofNat_toNat, BitVec.setWidth_eq]
  ext i hi
  by_cases hs : i < s
  · simp [hs]
  · have hbit : s + (i - s) = i := by omega
    by_cases hn : i - s < n <;> simp [hs, hn, hbit, hi, BitVec.getLsbD_eq_getElem]

/-- The same for a field in the low bits. -/
theorem lowField_eq_and (w : CodeWord) (n : Nat) :
    (BitVec.ofNat n (w.extractLsb' 0 n).toNat).setWidth 14 =
      w &&& (BitVec.allOnes n).setWidth 14 := by
  simpa using placedField_eq_and w 0 n

variable {w op : CodeWord}

/-- R92. -/
theorem encodeByteOp_fields (h : w &&& 0x3F00#14 = op) :
    encodeByteOp op (fieldF w) (fieldD w) = w := by
  rw [encodeByteOp, fieldF, fieldD, placedField_eq_and, lowField_eq_and, ← h,
    ← BitVec.and_or_distrib_left, ← BitVec.and_or_distrib_left]
  exact BitVec.and_allOnes

/-- R92: CLRF and MOVWF. -/
theorem encodeFileOp_fields (h : w &&& 0x3F80#14 = op) : encodeFileOp op (fieldF w) = w := by
  rw [encodeFileOp, fieldF, lowField_eq_and, ← h, ← BitVec.and_or_distrib_left]
  exact BitVec.and_allOnes

/-- R93. -/
theorem encodeBitOp_fields (h : w &&& 0x3C00#14 = op) :
    encodeBitOp op (fieldF w) (fieldB w) = w := by
  rw [encodeBitOp, fieldF, fieldB, placedField_eq_and, lowField_eq_and, ← h,
    ← BitVec.and_or_distrib_left, ← BitVec.and_or_distrib_left]
  exact BitVec.and_allOnes

/-- R94, R99: a literal row that leaves out the bits `x` above `k` gives the word with those 0. -/
theorem encodeLiteral_fields {m x : CodeWord} (h : w &&& m = op) (hx : m ||| 0x00FF#14 = ~~~x) :
    encodeLiteral op (fieldK8 w) = w &&& ~~~x := by
  rw [encodeLiteral, fieldK8, lowField_eq_and, ← h, ← BitVec.and_or_distrib_left, ← hx]
  rfl

/-- R95. -/
theorem encodeTarget_fields (h : w &&& 0x3800#14 = op) : encodeTarget op (fieldK11 w) = w := by
  rw [encodeTarget, fieldK11, lowField_eq_and, ← h, ← BitVec.and_or_distrib_left]
  exact BitVec.and_allOnes

/-- R99: of a word without don't-care bits nothing is cleared. -/
theorem and_not_zero (w : CodeWord) : w &&& ~~~0x0000#14 = w := BitVec.and_allOnes

/-- R110: a field of a word is in the range of its operand. -/
theorem wellFormed_of_operandsFrom {i : Instr} (h : OperandsFrom w i) : i.wellFormed = true := by
  cases i with
  | addwf f d | andwf f d | comf f d | decf f d | decfsz f d | incf f d | incfsz f d | iorwf f d
  | movf f d | rlf f d | rrf f d | subwf f d | swapf f d | xorwf f d =>
    obtain ⟨rfl, rfl⟩ := h
    exact Machine.byteOperandsInRange_iff.2 ⟨BitVec.isLt _, BitVec.isLt _⟩
  | bcf f b | bsf f b | btfsc f b | btfss f b =>
    obtain ⟨rfl, rfl⟩ := h
    exact Machine.bitOperandsInRange_iff.2 ⟨BitVec.isLt _, BitVec.isLt _⟩
  | clrf f | movwf f =>
    obtain rfl := h
    exact Machine.fileInRange_iff.2 (BitVec.isLt _)
  | addlw k | andlw k | iorlw k | movlw k | retlw k | sublw k | xorlw k =>
    obtain rfl := h
    exact literalInRange_iff.2 (BitVec.isLt _)
  | call k | goto k =>
    obtain rfl := h
    exact targetInRange_iff.2 (BitVec.isLt _)
  | clrw | nop | clrwdt | retfie | ret | sleep => rfl

/-- R99, R102: encoding the instruction of a word clears its don't-care bits, format by format. -/
theorem encode_of_row {i : Instr} (hrow : w &&& (rowOf i).1 = (rowOf i).2)
    (hoperands : OperandsFrom w i) : encode i = w &&& ~~~dontCareBits i := by
  cases i with
  | addwf f d | andwf f d | comf f d | decf f d | decfsz f d | incf f d | incfsz f d | iorwf f d
  | movf f d | rlf f d | rrf f d | subwf f d | swapf f d | xorwf f d =>
    obtain ⟨rfl, rfl⟩ := hoperands
    exact (encodeByteOp_fields hrow).trans (and_not_zero w).symm
  | bcf f b | bsf f b | btfsc f b | btfss f b =>
    obtain ⟨rfl, rfl⟩ := hoperands
    exact (encodeBitOp_fields hrow).trans (and_not_zero w).symm
  | clrf f | movwf f =>
    obtain rfl := hoperands
    exact (encodeFileOp_fields hrow).trans (and_not_zero w).symm
  | addlw k | sublw k =>
    obtain rfl := hoperands
    exact encodeLiteral_fields (m := 0x3E00#14) (x := 0x0100#14) hrow rfl
  | movlw k | retlw k =>
    obtain rfl := hoperands
    exact encodeLiteral_fields (m := 0x3C00#14) (x := 0x0300#14) hrow rfl
  | andlw k | iorlw k | xorlw k =>
    obtain rfl := hoperands
    exact encodeLiteral_fields (m := 0x3F00#14) (x := 0x0000#14) hrow rfl
  | call k | goto k =>
    obtain rfl := hoperands
    exact (encodeTarget_fields hrow).trans (and_not_zero w).symm
  | clrw | nop | clrwdt | retfie | ret | sleep => exact hrow.symm

end Sys2Proof

namespace Sys2Proof.Proofs

open Sys2Proof.Laws

/-- Settles O3: the word spells the row of its instruction, so its parts are those encoded. -/
theorem decodedWordReencodes : Obligations.DecodedWordReencodes := by
  intro w i h
  obtain ⟨hrow, hoperands⟩ := row_of_decode h
  exact ⟨wellFormed_of_operandsFrom hoperands, encode_of_row hrow hoperands⟩

/-- Settles O1: each word is the encoding of its instruction. -/
theorem handWrittenWordsDecode : Obligations.HandWrittenWordsDecode :=
  ⟨decode_encode (i := .addwf 0x20 1) rfl, decode_encode (i := .subwf 0x03 1) rfl,
    decode_encode (i := .clrf 0x20) rfl, decode_encode (i := .bsf 0x03 5) rfl,
    decode_encode (i := .btfss 0x7F 7) rfl, decode_encode (i := .movlw 0x19) rfl,
    decode_encode (i := .sublw 0x0A) rfl, decode_encode (i := .call 0x020) rfl,
    decode_encode (i := .goto 0x010) rfl, decode_encode (i := .retfie) rfl,
    decode_encode (i := .clrwdt) rfl⟩

end Sys2Proof.Proofs
end

section
/-! SUPPORT and proofs for spec/20_memory.md: the data address of an operand (R61, R62), the reads
(R64) and what a store leaves for them (R67, R75), the load of a program image (R101, R41), and the
step that runs the instruction fetched (R60, R205). -/

namespace Sys2Proof.Machine

open Sys2Proof.Claims

/-! ### The data address of an operand -/

/-- A bit of a word as a number. -/
theorem toNat_getLsbD {n : Nat} (x : BitVec n) (i : Nat) :
    (x.getLsbD i).toNat = x.toNat / 2 ^ i % 2 :=
  Nat.toNat_testBit x.toNat i

/-- R61: `RP1 : RP0 : f` as a number. -/
theorem operandAddr_direct_toNat (s : State) {f : Nat} (hf : f < 128) (h0 : f ≠ 0) :
    (operandAddr s f).toNat =
      256 * (s.status.getLsbD 6).toNat + 128 * (s.status.getLsbD 5).toNat + f := by
  have hdirect : BitVec.ofNat 7 f ≠ Config.addrINDF := fun h => h0 (by
    simpa [Config.addrINDF, Nat.mod_eq_of_lt hf] using congrArg BitVec.toNat h)
  rw [operandAddr, State.resolve, if_neg hdirect, toNat_append_eq_add, BitVec.extractLsb'_toNat,
    BitVec.toNat_ofNat, toNat_getLsbD, toNat_getLsbD, Nat.shiftRight_eq_div_pow, Config.bitRP0]
  omega

/-- R62: `IRP : FSR` as a number. -/
theorem operandAddr_indirect_toNat (s : State) :
    (operandAddr s 0).toNat = 256 * (s.status.getLsbD 7).toNat + s.fsr.toNat := by
  have hindirect : BitVec.ofNat 7 0 = Config.addrINDF := rfl
  rw [operandAddr, State.resolve, if_pos hindirect, toNat_append_eq_add, BitVec.extractLsb'_toNat,
    toNat_getLsbD, Nat.shiftRight_eq_div_pow, Config.bitIRP]
  omega

/-- R61: the low seven bits of a direct address are the operand, whatever the bank bits are. -/
theorem operandAddr_mod (s : State) {f : Nat} (hf : f < 128) (h0 : f ≠ 0) :
    (operandAddr s f).toNat % 128 = f := by
  rw [operandAddr_direct_toNat s hf h0]
  omega

/-- R67: an operand of the common row names its own cell from every bank. -/
theorem regionOf_commonOperand (s : State) {f : Nat} (hlow : 0x70 ≤ f) (hhigh : f < 0x80) :
    regionOf (operandAddr s f) = .ram f := by
  have hmod := operandAddr_mod s hhigh (by omega)
  refine regionOf_eq_ram_iff.2 (.inr ⟨?_, ?_⟩)
  · rwa [CommonRamAddr, hmod]
  · omega

/-! ### Reads -/

/-- R67: a read of RAM is a read of the storage cell. -/
theorem memRead_ram (s : State) {a : DataAddr} {cell : Nat} (h : regionOf a = .ram cell) :
    s.memRead a = .ok (s.ram.read cell) := by
  simp only [State.memRead, h]

/-- R24, R64: a read of PCL is the low byte of `next`. -/
theorem memRead_pcl (s : State) {a : DataAddr} (h : regionOf a = .pcl) :
    s.memRead a = .ok (s.next.extractLsb' 0 8) := by
  simp only [State.memRead, h]

/-- R64: the low byte of `next` as a number. -/
theorem next_low_toNat (s : State) :
    (s.next.extractLsb' 0 8).toNat = ((s.pc.toNat + 1) % 8192) % 256 := by
  simp [State.next, BitVec.extractLsb'_toNat]

/-! ### The load of a program image -/

/-- R101: a word of an image is a program word exactly when it has 14 bits. -/
theorem imageWord_ok_iff {n : Nat} {w : CodeWord} :
    imageWord n = .ok w ↔ n < 16384 ∧ w = BitVec.ofNat 14 n := by
  unfold imageWord
  split
  · next h => simp [h, eq_comm]
  · next h => simp [h]

/-- R101, R41: an image that is not malformed. -/
structure WellFormedImage (image : Image) : Prop where
  inRange : ∀ c ∈ image, c.1 < 8192 ∧ c.2 < 16384
  distinct : (image.map (·.1)).Nodup

theorem wellFormedImage_cons {a n : Nat} {rest : Image} :
    WellFormedImage ((a, n) :: rest) ↔
      a < 8192 ∧ n < 16384 ∧ a ∉ rest.map (·.1) ∧ WellFormedImage rest := by
  constructor
  · rintro ⟨hrange, hdistinct⟩
    obtain ⟨⟨ha, hn⟩, hrest⟩ := List.forall_mem_cons.1 hrange
    obtain ⟨hnew, hrest'⟩ := List.nodup_cons.1 hdistinct
    exact ⟨ha, hn, hnew, hrest, hrest'⟩
  · rintro ⟨ha, hn, hnew, hrest, hrest'⟩
    exact ⟨List.forall_mem_cons.2 ⟨⟨ha, hn⟩, hrest⟩, List.nodup_cons.2 ⟨hnew, hrest'⟩⟩

/-- R101: the program has the image's words at their addresses and nothing elsewhere. -/
structure HoldsImage (p : ProgramMemory) (image : Image) : Prop where
  canonical : p.wf
  placed : ∀ c ∈ image, p.lookup c.1 = some (BitVec.ofNat 14 c.2)
  nothingElse : ∀ a, a ∉ image.map (·.1) → p.lookup a = none

/-- Placing one more word of the image, at an address of its own. -/
theorem HoldsImage.place {p : ProgramMemory} {a n : Nat} {rest : Image} (h : HoldsImage p rest)
    (ha : a < 8192) (hnew : a ∉ rest.map (·.1)) :
    HoldsImage (p.place a (BitVec.ofNat 14 n)) ((a, n) :: rest) where
  canonical := place_wf _ _ _ h.canonical ha
  placed := by
    refine List.forall_mem_cons.2 ⟨lookup_place_same _ _ _, fun c hc => ?_⟩
    have hne : c.1 ≠ a := fun hca => hnew (hca ▸ List.mem_map_of_mem hc)
    rw [lookup_place_other _ _ _ _ hne, h.placed c hc]
  nothingElse := by
    intro b hb
    obtain ⟨hne, hrest⟩ := not_or.1 (mt List.mem_cons.2 hb)
    rw [lookup_place_other _ _ _ _ hne, h.nothingElse b hrest]

/-- R101, R41: an image that loads is not malformed, and the program holds it. -/
theorem loadImage_ok {image : Image} {p : ProgramMemory} (h : loadImage image = .ok p) :
    WellFormedImage image ∧ HoldsImage p image := by
  induction image generalizing p with
  | nil =>
    cases h
    exact ⟨⟨nofun, List.nodup_nil⟩, ⟨⟨List.Pairwise.nil, nofun⟩, nofun, fun _ _ => rfl⟩⟩
  | cons c rest ih =>
    obtain ⟨a, n⟩ := c
    obtain ⟨w, q, hw, hq, ha, hfree, rfl⟩ := loadImage_cons_ok h
    obtain ⟨hn, rfl⟩ := imageWord_ok_iff.1 hw
    obtain ⟨hwf, hholds⟩ := ih hq
    have hnew : a ∉ rest.map (·.1) := by
      intro hmem
      obtain ⟨c, hc, rfl⟩ := List.mem_map.1 hmem
      simp [hholds.placed c hc] at hfree
    exact ⟨wellFormedImage_cons.2 ⟨ha, hn, hnew, hwf⟩, hholds.place ha hnew⟩

/-- R101, R41: an image that is not malformed loads. -/
theorem exists_loadImage {image : Image} (h : WellFormedImage image) :
    ∃ p, loadImage image = .ok p := by
  induction image with
  | nil => exact ⟨[], rfl⟩
  | cons c rest ih =>
    obtain ⟨a, n⟩ := c
    obtain ⟨ha, hn, hnew, hrest⟩ := wellFormedImage_cons.1 h
    obtain ⟨p, hp⟩ := ih hrest
    have hfree := (loadImage_ok hp).2.nothingElse a hnew
    refine ⟨p.place a (BitVec.ofNat 14 n), ?_⟩
    simp [loadImage, imageWord_ok_iff.2 ⟨hn, rfl⟩, hp, hfree, Config.progWords, ha]

/-! ### The step that runs an instruction -/

/-- Logs 6, 8 and 10: what retirement adds to the state an instruction leaves. -/
theorem retire_eq (t : State) :
    t.retire = { t with
      wokeUp := false
      inputs := t.inputs.tail
      wdt := if t.wdte then t.wdt + t.input.wdtCounts else t.wdt
      wdtPrescaler :=
        if t.wdte then t.wdtPrescaler + t.input.prescalerCounts else t.wdtPrescaler } := by
  unfold State.retire State.passBoundary State.elapse
  split <;> rfl

/-- The run of a fetched instruction is its execution, retired. -/
theorem runInstruction_of_fetch {s : State} {i : Instr} (h : s.fetch = .ok i) :
    (∀ t, exec i s = .next t → runInstruction s = .next t.retire) ∧
    (∀ e, exec i s = .fault e → runInstruction s = .fault e) ∧
    (∀ r, exec i s = .refused r → runInstruction s = .refused r) := by
  refine ⟨fun t ht => ?_, fun e he => ?_, fun r hr => ?_⟩ <;> simp only [runInstruction, *]

end Sys2Proof.Machine

namespace Sys2Proof.Proofs

open Sys2Proof.Machine Sys2Proof.Claims

/-- Settles O10: the store writes the one cell, which both addresses name or do not name. -/
theorem ramReadsBackWhatWasStored : Obligations.RamReadsBackWhatWasStored := by
  intro s t a b cell other v fl hwf ha hwrite
  have hram := (memWrite_ok hwrite).ram cell ha
  refine ⟨fun hb => ?same, fun hb hne => ?other⟩
  case same => rw [memRead_ram t hb, hram, read_write_same _ _ _ hwf]
  case other =>
    rw [memRead_ram t hb, memRead_ram s hb, hram, read_write_other _ _ _ _ hwf hne]

/-- Settles O60: an image loads exactly when it is not malformed. -/
theorem imageIsLoadedWholeOrRefused : Obligations.ImageIsLoadedWholeOrRefused := by
  intro s image
  refine ⟨fun hrange hdistinct => ?loaded, fun hbad => ?refused⟩
  case loaded =>
    obtain ⟨p, hp⟩ := exists_loadImage ⟨hrange, hdistinct⟩
    obtain ⟨-, hwf, hplaced, helse⟩ := loadImage_ok hp
    exact ⟨p, by rw [State.loadProgram, hp], hwf, hplaced, helse⟩
  case refused =>
    cases hload : s.loadProgram image with
    | error e => exact ⟨e, rfl⟩
    | ok t =>
      obtain ⟨p, hp, -⟩ := loadProgram_ok hload
      obtain ⟨⟨hrange, hdistinct⟩, -⟩ := loadImage_ok hp
      obtain ⟨c, hc, hword⟩ | htwice := hbad
      · have := hrange c hc
        omega
      · exact absurd hdistinct htwice

/-- Settles O5: the fetch gives the decoded instruction, and its run is the step. -/
theorem stepRunsDecodedInstruction : Obligations.StepRunsDecodedInstruction := by
  intro s w i hrun hw hi
  obtain ⟨hnext, hfault, hrefused⟩ := runInstruction_of_fetch (fetch_of_lookup hw hi)
  rw [step_of_runsInstruction hrun]
  refine ⟨wellFormed_of_operandsFrom (row_of_decode hi).2, fun t ht => ?_, hfault, hrefused⟩
  obtain ⟨-, hwdte, -, hinputs⟩ := (exec_effect ht).fixed
  rw [hnext t ht, retire_eq, State.input, hwdte, hinputs]
  rfl

/-- Settles O7: direct and indirect operands. -/
theorem operandAddressFormation : Obligations.OperandAddressFormation :=
  fun s _ hf =>
    ⟨fun h0 => operandAddr_direct_toNat s hf h0, fun h0 => h0 ▸ operandAddr_indirect_toNat s⟩

/-- Settles O9: each row of R66 with its branch of R64. -/
theorem memoryReads : Obligations.MemoryReads := by
  intro s a
  have hread {r : Region} (h : DataRow a r) := regionOf_of_dataRow h
  refine ⟨fun h => ?indf, fun h => ?pcl, fun h => ?status, fun h => ?fsr, fun h => ?pclath,
    fun h => ?intcon, fun h => ?own, fun h => ?common, fun h => ?peripheral⟩
  case pcl => exact ⟨_, memRead_pcl s (hread (.pcl h)), next_low_toNat s⟩
  case own => exact memRead_ram s (hread (.own h))
  case common => exact memRead_ram s (hread (.common h))
  case peripheral => exact memRead_peripheral s (hread (.peripheral h))
  case pclath =>
    refine ⟨0#3 ++ s.pclath, by rw [State.memRead, hread (.pclath h)], ?_⟩
    rw [toNat_append_eq_add]
    simp
  case indf => rw [State.memRead, hread (.indf h)]
  case status => rw [State.memRead, hread (.status h)]
  case fsr => rw [State.memRead, hread (.fsr h)]
  case intcon => rw [State.memRead, hread (.intcon h)]

/-- Settles O11: the bank bits are above the low seven bits of the address. -/
theorem commonRamSeenFromEveryBank : Obligations.CommonRamSeenFromEveryBank :=
  fun s _ hlow hhigh => regionOf_commonOperand s hlow hhigh

end Sys2Proof.Proofs
end

section
/-! SUPPORT and proofs for spec/40_byte_file_ops.md and spec/43_control_transfer.md section 3: the
counting skips (R127, R129), the two rotates after one another (R134, R135), the computed jump
(R177), and the refusal of an operand out of range (R110). -/

namespace Sys2Proof.Machine

open Sys2Proof.Claims

/-! ### The counting skips (R127, R129, R171) -/

section CountingSkip

variable {s : State} {f : Nat} {v : Byte} (g : Byte → Byte) (hf : f < 128)

section Readable

variable (hv : s.memRead (operandAddr s f) = .ok v)
include hf hv

/-- With W as its destination. -/
theorem fileSkipOp_w : fileSkipOp f 0 g s = .next { s with
    w := g v, pc := if g v = 0x00#8 then s.pc + 2#13 else s.pc + 1#13 } := by
  rw [operandAddr] at hv
  simp [fileSkipOp, fileOperand_of_lt hf, destOperand, hv, writeDest_w, orRefuse, State.next,
    State.next2]

/-- With a register other than PCL as its destination. -/
theorem fileSkipOp_storedAt (hpcl : regionOf (operandAddr s f) ≠ .pcl) :
    ∃ t, fileSkipOp f 1 g s = .next t ∧ StoredAt s t (operandAddr s f) (g v)
      (if g v = 0x00#8 then s.pc + 2#13 else s.pc + 1#13) {} := by
  obtain ⟨t, ht, hstored⟩ := memWrite_storedAt s (g v)
    (if g v = 0x00#8 then s.pc + 2#13 else s.pc + 1#13) {} (region_of_memRead_ok hv)
  refine ⟨t, ?_, hstored⟩
  rw [operandAddr] at hv hpcl
  simp only [fileSkipOp, fileOperand_of_lt hf, destOperand, hpcl, and_false, if_false, hv]
  exact orRefuse_next.2 ht

end Readable

include hf in
/-- R65: PCL as the destination. -/
theorem fileSkipOp_pcl (hpcl : regionOf (operandAddr s f) = .pcl) :
    fileSkipOp f 1 g s = .refused .skipWithPCLDestination := by
  rw [operandAddr] at hpcl
  simp [fileSkipOp, fileOperand_of_lt hf, destOperand, hpcl]

end CountingSkip

/-- R127, R129: an instruction whose meaning is `fileSkipOp`. -/
theorem skipOpCompletes_of_fileSkipOp {i : Nat → Nat → Instr} {g : Byte → Byte}
    (hexec : ∀ f d s, exec (i f d) s = fileSkipOp f d g s) : SkipOpCompletes i g := by
  intro s f v hf hv
  rw [hexec, hexec]
  exact ⟨fileSkipOp_w g hf hv, fileSkipOp_storedAt g hf hv, fileSkipOp_pcl g hf⟩

/-! ### What a store leaves -/

section Stored

variable {s t : State} {a : DataAddr} {r : Byte} {n : ProgAddr} {fl : FlagUpdate}
  (h : StoredAt s t a r n fl)
include h

/-- R24: a store to PCL is a jump into PCLATH's block. -/
theorem pc_of_storedAt_pcl (ha : regionOf a = .pcl) : t.pc = s.pclath ++ r := by
  simp only [StoredAt, ha] at h
  exact congrArg State.pc h.1

/-- R67: a store to RAM writes the storage cell and STATUS's listed flags, and keeps W and FSR. -/
theorem fields_of_storedAt_ram {cell : Nat} (ha : regionOf a = .ram cell) :
    t.ram = s.ram.write cell r ∧ t.w = s.w ∧ t.fsr = s.fsr ∧ FlagsListed s t fl := by
  simp only [StoredAt, ha] at h
  obtain ⟨hframe, hflags⟩ := h
  exact ⟨congrArg State.ram hframe, (congrArg State.w hframe :), (congrArg State.fsr hframe :),
    hflags⟩

end Stored

/-- Bits 7:3 of STATUS, one by one. -/
theorem status_high_bit {s t : State} (h : t.status.extractLsb' 3 5 = s.status.extractLsb' 3 5)
    {j : Nat} (hj : 3 ≤ j) : t.status.getLsbD j = s.status.getLsbD j := by
  by_cases hlt : j < 8
  · have hbit := congrArg (BitVec.getLsbD · (j - 3)) h
    simpa [BitVec.getLsbD_extractLsb', show j - 3 < 5 by omega, show 3 + (j - 3) = j by omega]
      using hbit
  · have hge := Nat.le_of_not_lt hlt
    rw [BitVec.getLsbD_of_ge _ _ hge, BitVec.getLsbD_of_ge _ _ hge]

/-- STATUS is its three flags and bits 7:3 (R27). -/
theorem status_ext {s t : State} (hz : t.flagZ = s.flagZ) (hdc : t.flagDC = s.flagDC)
    (hc : t.flagC = s.flagC) (hhigh : t.status.extractLsb' 3 5 = s.status.extractLsb' 3 5) :
    t.status = s.status := by
  refine BitVec.eq_of_getLsbD_eq fun j _ => ?_
  match j with
  | 0 => exact hc
  | 1 => exact hdc
  | 2 => exact hz
  | j + 3 => exact status_high_bit hhigh (Nat.le_add_left 3 j)

/-- R61, R62: the address of an operand depends on bits 7:5 of STATUS and on FSR only. -/
theorem operandAddr_congr {s t : State} (f : Nat)
    (hhigh : t.status.extractLsb' 3 5 = s.status.extractLsb' 3 5) (hfsr : t.fsr = s.fsr) :
    operandAddr t f = operandAddr s f := by
  have hbank (start len : Nat) (hstart : 3 ≤ start) :
      t.status.extractLsb' start len = s.status.extractLsb' start len := by
    ext j hj
    simp only [BitVec.getElem_extractLsb']
    exact status_high_bit hhigh (Nat.le_add_right_of_le hstart)
  simp only [operandAddr, State.resolve, hfsr, hbank Config.bitIRP 1 (by decide),
    hbank Config.bitRP0 2 (by decide)]

/-- R75: writing back what a cell held restores RAM, whatever was written to it meanwhile. -/
theorem write_write_read (m : Memory) (a : Nat) (v : Byte) (h : m.wf) :
    (m.write a v).write a (m.read a) = m := by
  have hv := write_wf m a v h
  refine eq_of_read_eq _ _ (write_wf _ _ _ hv) h fun b => ?_
  by_cases hb : b = a
  · rw [hb, read_write_same _ _ _ hv]
  · rw [read_write_other _ _ _ _ hv hb, read_write_other _ _ _ _ h hb]

/-! ### The rotates in plain numbers -/

/-- R134: the old C is bit 0 of the byte rotated left. -/
theorem rotatedLeft_low (v : Byte) (c : Bool) :
    (BitVec.ofNat 8 (2 * v.toNat + c.toNat)).getLsbD 0 = c := by
  rw [BitVec.getLsbD_ofNat, Nat.testBit_zero]
  cases c <;> simp

/-- R134, R135: rotating right the byte rotated left, with its old bit 7 as C, gives it back. -/
theorem rotateRight_rotateLeft (v : Byte) (c : Bool) :
    BitVec.ofNat 8 (128 * (v.getLsbD 7).toNat +
      (BitVec.ofNat 8 (2 * v.toNat + c.toNat)).toNat / 2) = v := by
  apply BitVec.eq_of_toNat_eq
  have hv := v.isLt
  have hc : c.toNat < 2 := c.toNat_lt
  rw [toNat_getLsbD, BitVec.toNat_ofNat, BitVec.toNat_ofNat]
  omega

/-! ### Operands out of range (R110) -/

theorem fileOperand_eq_none {f : Nat} (h : ¬ f < 128) : fileOperand f = none := by
  simp [fileOperand, fileInRange, h]

theorem destOperand_eq_none {d : Nat} (h : ¬ d < 2) : destOperand d = none := by
  match d with
  | 0 | 1 => omega
  | _ + 2 => rfl

theorem bitOperand_eq_none {b : Nat} (h : ¬ b < 8) : bitOperand b = none := by
  simp [bitOperand, bitInRange, h]

section ByteOperands

variable {f d : Nat} (h : (fileInRange f && destInRange d) = false)
include h

/-- One of the two operands of an instruction `f,d` is missing. -/
theorem byteOperands_missing : fileOperand f = none ∨ destOperand d = none := by
  rw [← Bool.not_eq_true, byteOperandsInRange_iff, not_and_or] at h
  exact h.imp fileOperand_eq_none destOperand_eq_none

theorem fileOp_malformed (alu : Byte → AluOut) (s : State) :
    fileOp f d alu s = .refused .malformedOperand := by
  unfold fileOp
  obtain hf | hd := byteOperands_missing h
  · rw [hf]
  · rw [hd]
    cases fileOperand f <;> rfl

theorem fileSkipOp_malformed (g : Byte → Byte) (s : State) :
    fileSkipOp f d g s = .refused .malformedOperand := by
  unfold fileSkipOp
  obtain hf | hd := byteOperands_missing h
  · rw [hf]
  · rw [hd]
    cases fileOperand f <;> rfl

end ByteOperands

section BitOperands

variable {f b : Nat} (h : (fileInRange f && bitInRange b) = false)
include h

/-- One of the two operands of an instruction `f,b` is missing. -/
theorem bitOperands_missing : fileOperand f = none ∨ bitOperand b = none := by
  rw [← Bool.not_eq_true, bitOperandsInRange_iff, not_and_or] at h
  exact h.imp fileOperand_eq_none bitOperand_eq_none

theorem bitWriteOp_malformed (x : Bool) (s : State) :
    bitWriteOp f b x s = .refused .malformedOperand := by
  unfold bitWriteOp
  obtain hf | hb := bitOperands_missing h
  · rw [hf]
  · rw [hb]
    cases fileOperand f <;> rfl

theorem bitSkipOp_malformed (x : Bool) (s : State) :
    bitSkipOp f b x s = .refused .malformedOperand := by
  unfold bitSkipOp
  obtain hf | hb := bitOperands_missing h
  · rw [hf]
  · rw [hb]
    cases fileOperand f <;> rfl

end BitOperands

theorem fileStore_malformed {f : Nat} (h : fileInRange f = false) (out : AluOut) (s : State) :
    fileStore f out s = .refused .malformedOperand := by
  simp [fileStore, fileOperand, h]

theorem literalOp_malformed {k : Nat} (h : literalInRange k = false) (alu : Byte → AluOut)
    (s : State) : literalOp k alu s = .refused .malformedOperand := by
  simp [literalOp, literalOperand, h]

theorem execRetlw_malformed {k : Nat} (h : literalInRange k = false) (s : State) :
    execRetlw k s = .refused .malformedOperand := by
  simp [execRetlw, literalOperand, h]

theorem execCall_malformed {k : Nat} (h : targetInRange k = false) (s : State) :
    execCall k s = .refused .malformedOperand := by
  simp [execCall, targetOperand, h]

theorem execGoto_malformed {k : Nat} (h : targetInRange k = false) (s : State) :
    execGoto k s = .refused .malformedOperand := by
  simp [execGoto, targetOperand, h]

end Sys2Proof.Machine

namespace Sys2Proof.Proofs

open Sys2Proof.Machine Sys2Proof.Claims

/-- Settles O22: both are one counting skip, with their own words. -/
theorem countAndSkipInstructions : Obligations.CountAndSkipInstructions := by
  refine ⟨⟨?_, ?decfsz⟩, ⟨?_, ?incfsz⟩⟩
  case decfsz => exact skipOpCompletes_of_fileSkipOp fun _ _ _ => rfl
  case incfsz => exact skipOpCompletes_of_fileSkipOp fun _ _ _ => rfl
  all_goals exact spelledByteOp_of_row (by simp [opcodeTable, byteRows])

/-- Settles O32: ADDWF stores the sum of W and the low byte of `next` in PCL. -/
theorem computedJumpLanding : Obligations.ComputedJumpLanding := by
  intro s
  have hpcl : regionOf (operandAddr s 0x02) = .pcl :=
    regionOf_of_dataRow (.pcl (operandAddr_mod s (by decide) (by decide)))
  obtain ⟨-, t, ht, hstored⟩ := addwfAddsWAndFile.2 s 0x02 _ (by decide) (memRead_pcl s hpcl)
  have hlanding : t.pc.toNat = 256 * s.pclath.toNat + (s.pc.toNat + 1 + s.w.toNat) % 256 := by
    rw [pc_of_storedAt_pcl hstored hpcl, toNat_append_eq_add, BitVec.toNat_add, next_low_toNat]
    omega
  have hblock := s.pclath.isLt
  exact ⟨t, ht, hlanding, by omega⟩

/-- Settles O37: each instruction is one of the shapes, and each shape checks its operands first. -/
theorem malformedOperandsRefused : Obligations.MalformedOperandsRefused := by
  intro i s h
  cases i with
  | addwf f d | andwf f d | comf f d | decf f d | incf f d | iorwf f d | movf f d | rlf f d
  | rrf f d | subwf f d | swapf f d | xorwf f d => exact fileOp_malformed h _ s
  | decfsz f d | incfsz f d => exact fileSkipOp_malformed h _ s
  | clrf f | movwf f => exact fileStore_malformed h _ s
  | bcf f b | bsf f b => exact bitWriteOp_malformed h _ s
  | btfsc f b | btfss f b => exact bitSkipOp_malformed h _ s
  | addlw k | andlw k | iorlw k | movlw k | sublw k | xorlw k => exact literalOp_malformed h _ s
  | retlw k => exact execRetlw_malformed h s
  | call k => exact execCall_malformed h s
  | goto k => exact execGoto_malformed h s
  | clrw | nop | clrwdt | retfie | ret | sleep => cases h

/-- Settles O43: RLF leaves the byte one place higher with its bit 7 in C, RRF takes both back. -/
theorem rotateBackRestores : Obligations.RotateBackRestores := by
  intro s f cell hf hwf hcell
  obtain ⟨-, t, ht, hleft⟩ := rotateInstructions.1.2 s f _ hf (memRead_ram s hcell)
  obtain ⟨hram, hw, hfsr, hz, hdc, hc, hhigh⟩ := fields_of_storedAt_ram hleft hcell
  have haddr := operandAddr_congr f hhigh hfsr
  rw [← haddr] at hcell
  obtain ⟨-, u, hu, hright⟩ := rotateInstructions.2.2 t f _ hf (memRead_ram t hcell)
  obtain ⟨hram', hw', -, hz', hdc', hc', hhigh'⟩ := fields_of_storedAt_ram hright hcell
  have hcarry : t.status.getLsbD 0 = (s.ram.read cell).getLsbD 7 := hc
  refine ⟨t, u, ht, hu, ?ram, ?status, hw'.trans hw⟩
  case ram =>
    beta_reduce at hram hram'
    rw [hram', hcarry, hram, read_write_same _ _ _ hwf, rotateRight_rotateLeft]
    exact write_write_read _ _ _ hwf
  case status =>
    refine status_ext (hz'.trans hz) (hdc'.trans hdc) ?_ (hhigh'.trans hhigh)
    rw [hc', hram, read_write_same _ _ _ hwf]
    exact rotatedLeft_low _ _

end Sys2Proof.Proofs
end

section
/-! SUPPORT and proofs for spec/44_system_ops.md, spec/60_exceptions.md and
spec/70_reset_and_hazards.md: CLRWDT and SLEEP (R190, R192), the masked interrupt and the return from
one (R202, R204), the priority of the events (R210), sleep and its wake-ups (R193, R222, R227), the
external reset (R241) and the power-on state (R242). Each proof says which event the boundary takes,
and then what that event leaves. -/

namespace Sys2Proof.Machine

open Sys2Proof.Claims

/-! ### CLRWDT and SLEEP -/

/-- R190: nTO and nPD made 1. -/
theorem setBitTo_nTO_nPD_set (v : Byte) :
    setBitTo (setBitTo v Config.bitNTO true) Config.bitNPD true = v ||| 0x18#8 :=
  BitVec.or_assoc v 0x10#8 0x08#8

/-- R192: nTO made 1 and nPD made 0. -/
theorem setBitTo_nTO_set_nPD_clear (v : Byte) :
    setBitTo (setBitTo v Config.bitNTO true) Config.bitNPD false = (v ||| 0x10#8) &&& 0xF7#8 := rfl

/-- R190: CLRWDT in every state. -/
theorem execClrwdt_eq (s : State) : execClrwdt s = .next { s with
    status := s.status ||| 0x18#8, wdt := 0, wdtPrescaler := 0, pc := s.pc + 1#13 } := by
  simp only [execClrwdt, State.setPowerBits, State.advance, State.next, setBitTo_nTO_nPD_set]

/-- R192: SLEEP with no request pending. -/
theorem execSleep_of_no_request {s : State} (h : s.input.irqPending = false) :
    execSleep s = .next { s with
      status := (s.status ||| 0x10#8) &&& 0xF7#8
      wdt := 0, wdtPrescaler := 0, asleep := true, pc := s.pc + 1#13 } := by
  simp only [execSleep, h, Bool.false_eq_true, if_false, State.setPowerBits, State.advance,
    State.next, setBitTo_nTO_set_nPD_clear]

/-- R192, log 11: SLEEP with a request pending. -/
theorem execSleep_of_request {s : State} (h : s.input.irqPending = true) :
    execSleep s = .next { s with pc := s.pc + 1#13 } := by
  simp only [execSleep, h, if_true, State.advance, State.next]

/-! ### The return from an interrupt -/

/-- R37: a bit that was 1 is restored by clearing and setting it. -/
theorem setBitTo_false_true {v : Byte} {i : Nat} (h : v.getLsbD i = true) :
    setBitTo (setBitTo v i false) i true = v := by
  refine BitVec.eq_of_getLsbD_eq fun j _ => ?_
  rw [setBitTo_getLsbD, setBitTo_getLsbD]
  split
  · next hj => rw [hj.1, h]
  · rfl

/-- R202, R208: what RETFIE leaves where the stack's top is known. -/
theorem execRetfie_cons {t : State} {v : ProgAddr} {rest : List ProgAddr}
    (h : t.stack = v :: rest) :
    execRetfie t = .next { t with
      pc := v, stack := rest, intcon := setBitTo t.intcon Config.bitGIE true } := by
  rw [setBitTo_gie_true]
  exact congrArg orFault (returnFromInterrupt_cons h)

/-! ### Which event a boundary takes -/

/-- R210, R241: an external reset overrides everything. -/
theorem boundaryEvent_of_mclr {s : State} (h : s.input.mclr = true) :
    s.boundaryEvent = .externalReset := by
  simp [State.boundaryEvent, h]

/-- R220: with WDTE = 0 no time-out is taken. -/
theorem boundaryEvent_of_wdte_false {s : State} (h : s.wdte = false) :
    s.boundaryEvent ≠ .watchdogReset ∧ s.boundaryEvent ≠ .watchdogWake := by
  unfold State.boundaryEvent
  split_ifs <;> simp_all

/-- R222: a time-out of an enabled watchdog while asleep, and no external reset. -/
theorem boundaryEvent_of_timeout_asleep {s : State} (hmclr : s.input.mclr = false)
    (hwdte : s.wdte = true) (htimeout : s.input.wdtTimeout = true) (hasleep : s.asleep = true) :
    s.boundaryEvent = .watchdogWake := by
  simp [State.boundaryEvent, hmclr, hwdte, htimeout, hasleep]

/-- R193, R227: without a reset or time-out, a sleeping core wakes on a request, sleeps on, or is at
the end of its run. -/
theorem boundaryEvent_asleep {s : State} (hquiet : NoReset s) (hasleep : s.asleep = true) :
    s.boundaryEvent = if s.input.irqPending then .interruptWake
      else if !s.wdte && s.inputs.isEmpty then .noWakeLeft else .sleeping := by
  obtain ⟨hmclr, hwdt⟩ := hquiet
  have htimeout : (s.wdte && s.input.wdtTimeout) = false := by simpa using hwdt
  simp [State.boundaryEvent, hmclr, htimeout, hasleep]

/-- R204: while GIE = 0 the boundary runs the instruction. -/
theorem runsInstruction_of_masked {s : State} (hquiet : NoReset s) (hawake : s.asleep = false)
    (hgie : s.gie = false) : RunsInstruction s :=
  ⟨hquiet.1, hquiet.2, hawake, fun h => absurd (hgie.symm.trans h) Bool.false_ne_true⟩

/-- R222, R227, log 10: so does the boundary after a wake-up. -/
theorem runsInstruction_of_wokeUp {s : State} (hquiet : NoReset s) (hawake : s.asleep = false)
    (hwokeUp : s.wokeUp = true) : RunsInstruction s :=
  ⟨hquiet.1, hquiet.2, hawake, fun _ _ => hwokeUp⟩

/-! ### What sleep and the external reset leave -/

/-- R31, R222: nTO is bit 4. -/
theorem setBitTo_nTO_false (v : Byte) : setBitTo v Config.bitNTO false = v &&& 0xEF#8 := rfl

/-- R193: a boundary asleep leaves every field but the watchdog counters. -/
theorem elapse_sameMachine (s : State) :
    SameMachine s.elapse.passBoundary
      { s with wdt := s.elapse.wdt, wdtPrescaler := s.elapse.wdtPrescaler } := by
  unfold SameMachine State.passBoundary State.elapse
  split <;> rfl

/-- R46, R241: the external reset awake and asleep. -/
theorem externalReset_awake {s : State} (h : s.asleep = false) :
    s.externalReset = s.otherReset s.nTO s.nPD := by
  simp only [State.externalReset, h, Bool.false_eq_true, if_false]

theorem externalReset_asleep {s : State} (h : s.asleep = true) :
    s.externalReset = s.otherReset true false := by
  simp only [State.externalReset, h, if_true]

end Sys2Proof.Machine

namespace Sys2Proof.Proofs

open Sys2Proof.Machine Sys2Proof.Claims

/-- Settles O33: the two bits of STATUS it sets are 18h. -/
theorem clrwdtClearsWatchdog : Obligations.ClrwdtClearsWatchdog :=
  ⟨decode_encode (i := .clrwdt) rfl, execClrwdt_eq⟩

/-- Settles O35: with no request, and with one. -/
theorem sleepStopsTheCore : Obligations.SleepStopsTheCore :=
  ⟨decode_encode (i := .sleep) rfl, fun _ => ⟨execSleep_of_no_request, execSleep_of_request⟩⟩

/-- Settles O45: with GIE = 0 the boundary runs the instruction, whatever the request. -/
theorem maskedInterruptNotTaken : Obligations.MaskedInterruptNotTaken := by
  intro s hquiet hawake hgie
  have hruns := runsInstruction_of_masked hquiet hawake hgie
  exact ⟨boundaryEvent_of_runsInstruction hruns, step_of_runsInstruction hruns⟩

/-- Settles O46: the entry pushed the pc and cleared a GIE that was 1; RETFIE takes both back. -/
theorem retfieUndoesEntry : Obligations.RetfieUndoesEntry := by
  intro s t hevent hstep
  rw [step_of_interruptEntry hevent, orFault_next] at hstep
  obtain ⟨-, rfl⟩ := takeInterrupt_ok hstep
  have hintcon : setBitTo (setBitTo s.intcon Config.bitGIE false) Config.bitGIE true = s.intcon :=
    setBitTo_false_true (gie_of_boundaryEvent hevent)
  refine (execRetfie_cons rfl).trans ?_
  simp only [hintcon, State.passBoundary]

/-- Settles O47: the branches of the boundary in their order. -/
theorem boundaryPriority : Obligations.BoundaryPriority := by
  intro s
  refine ⟨boundaryEvent_of_mclr, boundaryEvent_of_wdte_false, fun hmclr hwdte htimeout => ?_⟩
  cases hasleep : s.asleep with
  | false => exact boundaryEvent_of_timeout_awake hmclr hwdte htimeout hasleep
  | true => exact boundaryEvent_of_timeout_asleep hmclr hwdte htimeout hasleep

/-- Settles O49: the step is the wake-up, and the boundary after it takes no interrupt. -/
theorem watchdogWakesSleepingCore : Obligations.WatchdogWakesSleepingCore := by
  intro s hmclr hwdte htimeout hasleep
  have hevent := boundaryEvent_of_timeout_asleep hmclr hwdte htimeout hasleep
  refine ⟨_, step_of_watchdogWake hevent, ?same, fun hquiet => ?next⟩
  case same =>
    simp only [SameMachine, State.passBoundary, State.watchdogWake, setBitTo_nTO_false]
  case next =>
    exact boundaryEvent_of_runsInstruction (runsInstruction_of_wokeUp hquiet rfl rfl)

/-- Settles O50: the step is the wake-up, and the boundary after it takes no interrupt. -/
theorem interruptWakesThenInstruction : Obligations.InterruptWakesThenInstruction := by
  intro s hquiet hasleep hirq
  have hevent : s.boundaryEvent = .interruptWake := by
    rw [boundaryEvent_asleep hquiet hasleep, if_pos hirq]
  refine ⟨_, step_of_interruptWake hevent, rfl, fun hquiet' => ?_⟩
  exact boundaryEvent_of_runsInstruction (runsInstruction_of_wokeUp hquiet' rfl rfl)

/-- Settles O51: the run of the sleeping core is over, or it sleeps through the boundary. -/
theorem sleepingCoreKeepsState : Obligations.SleepingCoreKeepsState := by
  intro s hquiet hasleep hirq
  have hevent := boundaryEvent_asleep hquiet hasleep
  simp only [hirq, Bool.false_eq_true, if_false] at hevent
  refine ⟨fun hwdte hinputs => ?runEnds, fun hleft => ?sleeping⟩
  case runEnds =>
    have hends := (boundaryEvent_eq_noWakeLeft_iff s).2 ⟨hasleep, hwdte, hinputs⟩
    simp only [step, hends]
  case sleeping =>
    have hsleeping : s.boundaryEvent = .sleeping := by
      rw [hevent, if_neg]
      rcases hleft with h | h <;> simp [h]
    refine ⟨s.elapse.passBoundary, by simp only [step, hsleeping], elapse_sameMachine s, ?_⟩
    intro hrun
    have hawake := awake_of_boundaryEvent (.inr hrun)
    simp [hasleep] at hawake

/-- Settles O52: the reset of R46 with the nTO and nPD of the two cases. -/
theorem externalResetValues : Obligations.ExternalResetValues := by
  intro s hmclr
  have hstep := step_of_externalReset (boundaryEvent_of_mclr hmclr)
  refine ⟨fun hawake => ⟨_, hstep, ?awake⟩, fun hasleep => ⟨_, hstep, ?asleep⟩⟩
  case awake =>
    rw [externalReset_awake hawake]
    exact otherReset_sameMachine s s.nTO s.nPD
  case asleep =>
    rw [externalReset_asleep hasleep]
    exact otherReset_sameMachine s true false

/-- Settles O54: each value by the field of the power-on state. -/
theorem powerOnIsALaunchState : Obligations.PowerOnIsALaunchState where
  pc := rfl
  stack := rfl
  status := rfl
  pclath := rfl
  intcon := rfl
  awake := rfl
  watchdog := ⟨rfl, rfl⟩

/-- Settles O56: the memories and the stack are empty, and the core is awake. -/
theorem powerOnSatisfiesInv : Obligations.PowerOnSatisfiesInv where
  ramCanonical := ⟨List.Pairwise.nil, nofun⟩
  ramCells := nofun
  progCanonical := ⟨List.Pairwise.nil, nofun⟩
  stackDepth := Nat.zero_le _
  sleepBits := nofun
  wokenAwake := nofun

end Sys2Proof.Proofs
end

section
/-! SUPPORT and proof for the assembler of spec/30_encoding.md section 5: every instruction it forms
has passed the range check of R110 (`inRange`). -/

namespace Sys2Proof.Asm

/-- R110: the range check answers well-formed instructions only. -/
theorem inRange_ok {i j : Instr} (h : inRange i = .ok j) : j.wellFormed = true := by
  unfold inRange at h
  split at h
  · next hwf =>
    cases h
    exact hwf
  · cases h

/-- An instruction with one operand is formed by the range check. -/
theorem form1_ok {mk : Nat → Instr} {a : Except AsmError Nat} {i : Instr}
    (h : form1 mk a = .ok i) : i.wellFormed = true := by
  cases a with
  | ok n => exact inRange_ok h
  | error e => cases h

/-- An instruction with two operands is formed by the range check. -/
theorem form2_ok {mk : Nat → Nat → Instr} {a b : Except AsmError Nat} {i : Instr}
    (h : form2 mk a b = .ok i) : i.wellFormed = true := by
  cases a with
  | error e => cases h
  | ok m =>
    cases b with
    | error e => cases h
    | ok n => exact inRange_ok h

/-- R103, R105: so is every instruction of a mnemonic with its operands. -/
theorem instrOf_ok {s : Symbols} {mnemonic : Text} {operands : List Text} {i : Instr}
    (h : instrOf s mnemonic operands = .ok i) : i.wellFormed = true := by
  unfold instrOf at h
  split at h
  case h_1 | h_8 => cases h
  case h_2 | h_4 => exact form2_ok h
  case h_3 | h_5 | h_6 => exact form1_ok h
  case h_7 => exact inRange_ok h

/-- R109: and every instruction of a line. -/
theorem instrOfLine_ok {s : Symbols} {l : Line} {i : Instr} (h : instrOfLine s l = .ok i) :
    i.wellFormed = true := by
  unfold instrOfLine at h
  split at h
  · split at h
    · exact instrOf_ok h
    · cases h
  · exact instrOf_ok h

/-- The inversion of `instrsOf` on a line: it emits nothing, or one instruction before the rest. -/
theorem instrsOf_cons_ok {s : Symbols} {l : Line} {rest : List Line} {is : List Instr}
    (h : instrsOf s (l :: rest) = .ok is) :
    instrsOf s rest = .ok is ∨
      ∃ i js, instrOfLine s l = .ok i ∧ instrsOf s rest = .ok js ∧ is = i :: js := by
  unfold instrsOf at h
  split at h
  · exact .inl h
  · split at h
    · next i js hi hjs =>
      cases h
      exact .inr ⟨i, js, hi, hjs, rfl⟩
    · cases h
    · cases h

/-- The instructions of expanded lines, by induction on the lines. -/
theorem instrsOf_ok {s : Symbols} {ls : List Line} {is : List Instr} (h : instrsOf s ls = .ok is) :
    ∀ i ∈ is, i.wellFormed = true := by
  induction ls generalizing is with
  | nil =>
    cases h
    nofun
  | cons l rest ih =>
    obtain hrest | ⟨i, js, hi, hrest, rfl⟩ := instrsOf_cons_ok h
    · exact ih hrest
    · exact List.forall_mem_cons.2 ⟨instrOfLine_ok hi, ih hrest⟩

/-- The inversion of `assemble`: the instructions are those of the expanded lines. -/
theorem assemble_ok {files : List (Text × Text)} {user : List (Text × Nat)} {origin : Nat}
    {source : Text} {is : List Instr} (h : assemble files user origin source = .ok is) :
    ∃ ls, instrsOf ⟨user, labelsFrom origin ls⟩ ls = .ok is := by
  unfold assemble at h
  split at h
  · cases h
  · split at h
    · cases h
    · exact ⟨_, h⟩

end Sys2Proof.Asm

namespace Sys2Proof.Proofs

/-- Settles O59: whatever the expanded lines are, each of their instructions passed R110's check. -/
theorem assembledInstructionsAreWellFormed : Obligations.AssembledInstructionsAreWellFormed := by
  intro files user origin source is h
  obtain ⟨ls, hls⟩ := Asm.assemble_ok h
  exact Asm.instrsOf_ok hls

end Sys2Proof.Proofs
end
